-- ==== Sys2Proof/Word.lean ====
section
/-! DEFINITION. The byte, the 32-bit ISP word and the 4-byte command (00_scope.md R9, 30_encoding.md R90). -/

namespace Sys2Proof

/-- A byte: 8 bits, unsigned (R9). -/
abbrev Byte := BitVec 8

/-- A 4-byte ISP command seen as one number, bit 31 the first bit on the wire (R9). -/
abbrev Word := BitVec 32

/-- Four bytes in wire order: a command `cmd[0..3]` or a response `res[0..3]` (R90). -/
structure Cmd where
  b0 : Byte
  b1 : Byte
  b2 : Byte
  b3 : Byte
deriving DecidableEq, Repr

end Sys2Proof
end

