-- ==== Sys2Proof/Config.lean ====
section
/-! DEFINITION. What a session's configuration is (10_state.md R20 to R29, 00_scope.md R8), and the free values:
what the spec leaves open, as constants without a body. -/

namespace Sys2Proof

/-- The logical pins (R27). The source gives neither the number nor the names of the status LEDs, so they are numbered. -/
inductive Pin where
  | sck | sdo | sdi | reset | led (n : Nat) | power
deriving DecidableEq, Repr

/-- An ISP opcode template, `IspOpcode` (R22). In `addrMap` and `inputMap` a pair is (position in the word, operand bit). -/
structure Template where
  constBits : Word
  addrMap : List (Nat × Nat)
  inputMap : List (Nat × Nat)
  outputByte : Option (Fin 4)
  poll : Option (Fin 4 × Byte)
deriving DecidableEq, Repr

/-- The operation names a region's table may define (R24). -/
inductive OpName where
  | read | readLo | readHi | write | writeLo | writeHi | loadpageLo | loadpageHi | writepage | loadExtAddr
deriving DecidableEq, Repr

/-- `op[OPNAME]` of a region: one template or undefined for each operation name (R21, R24). -/
structure OpTable where
  read : Option Template := none
  readLo : Option Template := none
  readHi : Option Template := none
  write : Option Template := none
  writeLo : Option Template := none
  writeHi : Option Template := none
  loadpageLo : Option Template := none
  loadpageHi : Option Template := none
  writepage : Option Template := none
  loadExtAddr : Option Template := none
deriving DecidableEq, Repr

/-- A region's name. The names are the descriptor's (R20); the first eight are those the reference profiles use (R229). -/
inductive RegionName where
  | flash | eeprom | signature | lfuse | hfuse | efuse | lock | calibration | other (n : Nat)
deriving DecidableEq, Repr

/-- A memory region, `MemoryRegion` (R21). `pollValue` is read by no rule, and `chipEraseDelayUs` is a copy of the
part-level delay that no rule reads (90_conflicts.md C4). -/
structure Region where
  size : Nat
  pageSize : Nat
  minWriteDelayUs : Nat
  maxWriteDelayUs : Nat
  chipEraseDelayUs : Nat
  pollValue : Byte
  pollSentinels : List Byte
  ops : OpTable
deriving DecidableEq, Repr

/-- The part descriptor (R20). -/
structure PartDescriptor where
  regions : List (RegionName × Region)
  pgmEnable : Option Template
  chipErase : Option Template
  chipEraseDelayUs : Nat
deriving DecidableEq, Repr

/-- One entry of the pin configuration (R27): the physical line, `none` for `unassigned`, and the polarity. -/
structure PinEntry where
  line : Option Nat
  inverted : Bool
deriving DecidableEq, Repr

/-- The pin configuration (R27). -/
structure PinConfig where
  sck : PinEntry
  sdo : PinEntry
  sdi : PinEntry
  reset : PinEntry
  leds : List PinEntry
  power : PinEntry
deriving DecidableEq, Repr

/-- An operation of `InitPreamble` or `DisablePostamble` (R372, R383): neither may sample `Sdi`. -/
inductive PinOp where
  | set (p : Pin) (v : Bool)
  | pulse (p : Pin)
  | delay (us : Nat)
deriving DecidableEq, Repr

/-- The numeric parameters of the block (R8, R29). `addrFieldBits` is the width of the codec's address field (log 17). -/
structure Params where
  resyncBound : Nat
  pollBound : Nat
  startBitWindow : Nat
  bitDelayUs : Nat
  addrFieldBits : Nat
deriving DecidableEq, Repr

/-- Everything written before a session and read-only to the block (10_state.md §1). -/
structure Configuration where
  part : PartDescriptor
  pins : PinConfig
  params : Params
  initPreamble : List PinOp
  disablePostamble : List PinOp
deriving DecidableEq, Repr

/-- The reference profiles (R102). A profile says how the words of an instruction stream are read (log 6). -/
inductive Profile where
  | p0 | p1 | p2
deriving DecidableEq, Repr

/-- The parameters at R8's default values. -/
def Config.defaultParams : Params :=
  { resyncBound := 32, pollBound := 10, startBitWindow := 10, bitDelayUs := 0, addrFieldBits := 16 }

/-- Free value (R70, I1; log 3): the electrical level the environment presents at the n-th `Get`, once the levels
listed in the state are used up. Safe: nothing constrains it. -/
opaque Config.sdiLevel : Nat → Bool

/-- Free value (R136, I7; log 4): whether the n-th transport call fails and with which error value, once the entries
listed in the state are used up. Safe: nothing constrains it. -/
opaque Config.transportFault : Nat → Option Nat

/-- Free value (R50, R370, I2; log 2): `lvl[Sdo]` when the session is created. Safe: nothing constrains it. -/
opaque Config.sdoAtReset : Bool

/-- Free value (R201; log 13): what `extract_output` answers for a template with no output byte. Safe. -/
opaque Config.undefinedOutput : Cmd → Byte

end Sys2Proof
end

