-- ==== Sys2Proof/Syntax.lean ====
section
/-! DEFINITION. The ISP instructions: one constructor per row of spec/opcode_table.json (43_isp_codec.md R230 to R259).
`fa` is a field address, an unsigned natural (R94); `d` is a data byte (R95). -/

namespace Sys2Proof

/-- The ISP instructions of the reference profiles (R102). -/
inductive Instr where
  /-- R230 -/ | p0PgmEnable
  /-- R231 -/ | p0ChipErase
  /-- R232 -/ | p0FlashReadLo (fa : Nat)
  /-- R233 -/ | p0FlashReadHi (fa : Nat)
  /-- R234 -/ | p0FlashLoadpageLo (fa : Nat) (d : Byte)
  /-- R235 -/ | p0FlashLoadpageHi (fa : Nat) (d : Byte)
  /-- R236 -/ | p0FlashWritepage (fa : Nat)
  /-- R237 -/ | p0EepromRead (fa : Nat)
  /-- R238 -/ | p0EepromWrite (fa : Nat) (d : Byte)
  /-- R239 -/ | p0SignatureRead (fa : Nat)
  /-- R240 -/ | p0LfuseRead
  /-- R241 -/ | p0LfuseWrite (d : Byte)
  /-- R242 -/ | p0HfuseRead
  /-- R243 -/ | p0HfuseWrite (d : Byte)
  /-- R244 -/ | p0EfuseRead
  /-- R245 -/ | p0EfuseWrite (d : Byte)
  /-- R246 -/ | p0LockRead
  /-- R247 -/ | p0LockWrite (d : Byte)
  /-- R248 -/ | p0CalibrationRead
  /-- R249 -/ | p1FlashLoadExtAddr (fa : Nat)
  /-- R250 -/ | p1FlashReadLo (fa : Nat)
  /-- R251 -/ | p1FlashReadHi (fa : Nat)
  /-- R252 -/ | p1FlashLoadpageLo (fa : Nat) (d : Byte)
  /-- R253 -/ | p1FlashLoadpageHi (fa : Nat) (d : Byte)
  /-- R254 -/ | p1FlashWritepage (fa : Nat)
  /-- R255 -/ | p2PgmEnable
  /-- R256 -/ | p2FlashReadLo (fa : Nat)
  /-- R257 -/ | p2FlashReadHi (fa : Nat)
  /-- R258 -/ | p2FlashWriteLo (fa : Nat) (d : Byte)
  /-- R259 -/ | p2FlashWriteHi (fa : Nat) (d : Byte)
deriving DecidableEq, Repr

end Sys2Proof
end

