-- ==== Sys2Proof/WellFormed.lean ====
section
/-! DEFINITION. When an instruction's operands are exactly what its template carries, when a template is well-formed
(10_state.md R23), and when a configuration is one the block has a session for (60_exceptions.md R348, log 16). -/

namespace Sys2Proof

/-- Every operand bit of the instruction is carried by its template (R91, R94, R95), so the word says all of it.
An instruction that is not well-formed still runs: `build` drops the bits the template does not name (R200). -/
def Instr.wf : Instr → Bool
  | .p0PgmEnable => true
  | .p0ChipErase => true
  | .p0FlashReadLo fa => fa < 2 ^ 14
  | .p0FlashReadHi fa => fa < 2 ^ 14
  | .p0FlashLoadpageLo fa _ => fa < 2 ^ 6
  | .p0FlashLoadpageHi fa _ => fa < 2 ^ 6
  | .p0FlashWritepage fa => fa < 2 ^ 14 && fa % 2 ^ 6 == 0
  | .p0EepromRead fa => fa < 2 ^ 10
  | .p0EepromWrite fa _ => fa < 2 ^ 10
  | .p0SignatureRead fa => fa < 2 ^ 2
  | .p0LfuseRead => true
  | .p0LfuseWrite _ => true
  | .p0HfuseRead => true
  | .p0HfuseWrite _ => true
  | .p0EfuseRead => true
  | .p0EfuseWrite _ => true
  | .p0LockRead => true
  | .p0LockWrite d => d.toNat < 2 ^ 6
  | .p0CalibrationRead => true
  | .p1FlashLoadExtAddr fa => fa < 2 ^ 17 && fa % 2 ^ 16 == 0
  | .p1FlashReadLo fa => fa < 2 ^ 16
  | .p1FlashReadHi fa => fa < 2 ^ 16
  | .p1FlashLoadpageLo fa _ => fa < 2 ^ 7
  | .p1FlashLoadpageHi fa _ => fa < 2 ^ 7
  | .p1FlashWritepage fa => fa < 2 ^ 16 && fa % 2 ^ 7 == 0
  | .p2PgmEnable => true
  | .p2FlashReadLo fa => fa < 2 ^ 9
  | .p2FlashReadHi fa => fa < 2 ^ 9
  | .p2FlashWriteLo fa _ => fa < 2 ^ 9
  | .p2FlashWriteHi fa _ => fa < 2 ^ 9

/-- No element of the list appears twice. -/
def noRepeat {α : Type} [DecidableEq α] : List α → Bool
  | [] => true
  | x :: xs => !xs.contains x && noRepeat xs

/-- R22, R23: positions and operand bits in range, (a) no position twice, (b) the constant is 0 at every mapped
position, (c) no operand bit twice in its map. -/
def Template.wf (T : Template) : Bool :=
  let positions := T.addrMap.map Prod.fst ++ T.inputMap.map Prod.fst
  positions.all (fun p => p < 32)
    && T.addrMap.all (fun e => e.2 < 32)
    && T.inputMap.all (fun e => e.2 < 8)
    && noRepeat positions
    && positions.all (fun p => !T.constBits.getLsbD p)
    && noRepeat (T.addrMap.map Prod.snd)
    && noRepeat (T.inputMap.map Prod.snd)

/-- Every template of a region's table that is defined. -/
def OpTable.defined (o : OpTable) : List Template :=
  [o.read, o.readLo, o.readHi, o.write, o.writeLo, o.writeHi, o.loadpageLo, o.loadpageHi, o.writepage,
    o.loadExtAddr].filterMap id

/-- R21: the legal values of a region's fields, and its templates well-formed. -/
def Region.wf (m : Region) : Bool :=
  0 < m.size
    && m.minWriteDelayUs ≤ m.maxWriteDelayUs
    && m.pollSentinels.length ≤ 2
    && m.ops.defined.all Template.wf

/-- R20: the region names differ, and every region and part-level template is well-formed. -/
def PartDescriptor.wf (p : PartDescriptor) : Bool :=
  noRepeat (p.regions.map Prod.fst)
    && p.regions.all (fun e => e.2.wf)
    && p.pgmEnable.toList.all Template.wf
    && p.chipErase.toList.all Template.wf

/-- R8: the legal values of the bounds. Any `BitDelayUs` is legal; `AddrFieldBits` is not bounded here (log 17). -/
def Params.wf (p : Params) : Bool :=
  1 ≤ p.resyncBound && 1 ≤ p.pollBound && 1 ≤ p.startBitWindow

/-- The level `Sck` holds after the listed operations, if it holds `l` before them (R130, R132). -/
def sckAfter : Bool → List PinOp → Bool
  | l, [] => l
  | _, .set .sck v :: ops => sckAfter v ops
  | l, _ :: ops => sckAfter l ops

/-- R348, R370 (a), R372: the configurations the block has a session for (log 16). The preamble leaves `Sck` inactive
(R372); so does the postamble, since `Sck` is inactive at every host-call boundary (R312 (b), log 21). -/
def Configuration.wf (c : Configuration) : Bool :=
  c.part.wf && c.params.wf && !sckAfter false c.initPreamble && !sckAfter false c.disablePostamble

end Sys2Proof
end

