-- ==== Sys2Proof/Decode.lean ====
section
/-! DEFINITION. The ISP codec (43_isp_codec.md Part 1), the templates of the reference profiles (Part 3), the decoder of
an ISP word in a profile, and the encoder. The masks are those of spec/opcode_table.json: a bit the pattern leaves `x`
is in no mask, so a word is read whatever it holds there, and the encoder sends 0 there (R93; log 8). -/

namespace Sys2Proof

/-! ### Bytes and words (R9) -/

/-- `W = {cmd[0], cmd[1], cmd[2], cmd[3]}` (R9). -/
def Cmd.word (c : Cmd) : Word := c.b0 ++ c.b1 ++ c.b2 ++ c.b3

/-- `cmd[j] = W[31-8j : 24-8j]` (R9). -/
def Cmd.ofWord (w : Word) : Cmd :=
  { b0 := w.extractLsb' 24 8, b1 := w.extractLsb' 16 8, b2 := w.extractLsb' 8 8, b3 := w.extractLsb' 0 8 }

/-- The bytes in wire order (R65). -/
def Cmd.bytes (c : Cmd) : List Byte := [c.b0, c.b1, c.b2, c.b3]

/-- `res[j]` (R90). -/
def Cmd.byte (c : Cmd) (j : Fin 4) : Byte :=
  match j with
  | 0 => c.b0
  | 1 => c.b1
  | 2 => c.b2
  | 3 => c.b3

/-! ### Codec functions -/

/-- `for (pos, k) in map: W[pos] <- W[pos] OR operand[k]` (R200). -/
def placeBits (operand : Nat → Bool) : List (Nat × Nat) → Word → Word
  | [], w => w
  | (pos, k) :: rest, w => placeBits operand rest (if operand k then w ||| BitVec.twoPow 32 pos else w)

/-- The word that `build` cuts into bytes (R200). -/
def buildWord (T : Template) (addr : Option Nat) (input : Option Byte) : Word :=
  let w := match addr with
    | none => T.constBits
    | some a => placeBits a.testBit T.addrMap T.constBits
  match input with
  | none => w
  | some d => placeBits d.getLsbD T.inputMap w

/-- `build(T, addr, input)` (R200). -/
def build (T : Template) (addr : Option Nat) (input : Option Byte) : Cmd :=
  Cmd.ofWord (buildWord T addr input)

/-- `extract_output(T, res)` (R201); a template without an output byte has a free value here (log 13). -/
def extractOutput (T : Template) (res : Cmd) : Byte :=
  match T.outputByte with
  | some j => res.byte j
  | none => Config.undefinedOutput res

/-- The operand whose bit k is `W[pos]` for each (pos, k) of the map: what `placeBits` placed. -/
def gatherBits (w : Word) : List (Nat × Nat) → Nat
  | [] => 0
  | (pos, k) :: rest => (if w.getLsbD pos then 2 ^ k else 0) ||| gatherBits w rest

/-! ### The reference templates (R230 to R259, R102; spec's own mark: from general knowledge) -/

/-- The map of operand bits k, k+1, … to positions pos, pos+1, …, n of them. -/
def mapBits (pos k n : Nat) : List (Nat × Nat) := (List.range n).map fun i => (pos + i, k + i)

/-- R230, P0.PGM_ENABLE: `10101100 01010011 xxxxxxxx xxxxxxxx`. -/
def tplP0PgmEnable : Template :=
  { constBits := 0xAC530000#32, addrMap := [], inputMap := [], outputByte := none, poll := some (2, 0x53#8) }

/-- R231, P0.CHIP_ERASE: `10101100 100xxxxx xxxxxxxx xxxxxxxx`. -/
def tplP0ChipErase : Template :=
  { constBits := 0xAC800000#32, addrMap := [], inputMap := [], outputByte := none, poll := none }

/-- R232, P0.flash.READ_LO: `00100000 00aaaaaa aaaaaaaa oooooooo`. -/
def tplP0FlashReadLo : Template :=
  { constBits := 0x20000000#32, addrMap := mapBits 8 0 14, inputMap := [], outputByte := some 3, poll := none }

/-- R233, P0.flash.READ_HI: `00101000 00aaaaaa aaaaaaaa oooooooo`. -/
def tplP0FlashReadHi : Template :=
  { constBits := 0x28000000#32, addrMap := mapBits 8 0 14, inputMap := [], outputByte := some 3, poll := none }

/-- R234, P0.flash.LOADPAGE_LO: `01000000 000xxxxx xxaaaaaa iiiiiiii`. -/
def tplP0FlashLoadpageLo : Template :=
  { constBits := 0x40000000#32, addrMap := mapBits 8 0 6, inputMap := mapBits 0 0 8, outputByte := none, poll := none }

/-- R235, P0.flash.LOADPAGE_HI: `01001000 000xxxxx xxaaaaaa iiiiiiii`. -/
def tplP0FlashLoadpageHi : Template :=
  { constBits := 0x48000000#32, addrMap := mapBits 8 0 6, inputMap := mapBits 0 0 8, outputByte := none, poll := none }

/-- R236, P0.flash.WRITEPAGE: `01001100 00aaaaaa aaxxxxxx xxxxxxxx`. -/
def tplP0FlashWritepage : Template :=
  { constBits := 0x4C000000#32, addrMap := mapBits 14 6 8, inputMap := [], outputByte := none, poll := none }

/-- R237, P0.eeprom.READ: `10100000 000xxxaa aaaaaaaa oooooooo`. -/
def tplP0EepromRead : Template :=
  { constBits := 0xA0000000#32, addrMap := mapBits 8 0 10, inputMap := [], outputByte := some 3, poll := none }

/-- R238, P0.eeprom.WRITE: `11000000 000xxxaa aaaaaaaa iiiiiiii`. -/
def tplP0EepromWrite : Template :=
  { constBits := 0xC0000000#32, addrMap := mapBits 8 0 10, inputMap := mapBits 0 0 8, outputByte := none, poll := none }

/-- R239, P0.signature.READ: `00110000 000xxxxx xxxxxxaa oooooooo`. -/
def tplP0SignatureRead : Template :=
  { constBits := 0x30000000#32, addrMap := mapBits 8 0 2, inputMap := [], outputByte := some 3, poll := none }

/-- R240, P0.lfuse.READ: `01010000 00000000 xxxxxxxx oooooooo`. -/
def tplP0LfuseRead : Template :=
  { constBits := 0x50000000#32, addrMap := [], inputMap := [], outputByte := some 3, poll := none }

/-- R241, P0.lfuse.WRITE: `10101100 10100000 xxxxxxxx iiiiiiii`. -/
def tplP0LfuseWrite : Template :=
  { constBits := 0xACA00000#32, addrMap := [], inputMap := mapBits 0 0 8, outputByte := none, poll := none }

/-- R242, P0.hfuse.READ: `01011000 00001000 xxxxxxxx oooooooo`. -/
def tplP0HfuseRead : Template :=
  { constBits := 0x58080000#32, addrMap := [], inputMap := [], outputByte := some 3, poll := none }

/-- R243, P0.hfuse.WRITE: `10101100 10101000 xxxxxxxx iiiiiiii`. -/
def tplP0HfuseWrite : Template :=
  { constBits := 0xACA80000#32, addrMap := [], inputMap := mapBits 0 0 8, outputByte := none, poll := none }

/-- R244, P0.efuse.READ: `01010000 00001000 xxxxxxxx oooooooo`. -/
def tplP0EfuseRead : Template :=
  { constBits := 0x50080000#32, addrMap := [], inputMap := [], outputByte := some 3, poll := none }

/-- R245, P0.efuse.WRITE: `10101100 10100100 xxxxxxxx iiiiiiii`. -/
def tplP0EfuseWrite : Template :=
  { constBits := 0xACA40000#32, addrMap := [], inputMap := mapBits 0 0 8, outputByte := none, poll := none }

/-- R246, P0.lock.READ: `01011000 00000000 xxxxxxxx oooooooo`. -/
def tplP0LockRead : Template :=
  { constBits := 0x58000000#32, addrMap := [], inputMap := [], outputByte := some 3, poll := none }

/-- R247, P0.lock.WRITE: `10101100 111xxxxx xxxxxxxx 11iiiiii`. -/
def tplP0LockWrite : Template :=
  { constBits := 0xACE000C0#32, addrMap := [], inputMap := mapBits 0 0 6, outputByte := none, poll := none }

/-- R248, P0.calibration.READ: `00111000 000xxxxx 00000000 oooooooo`. -/
def tplP0CalibrationRead : Template :=
  { constBits := 0x38000000#32, addrMap := [], inputMap := [], outputByte := some 3, poll := none }

/-- R249, P1.flash.LOAD_EXT_ADDR: `01001101 00000000 0000000a 00000000`. -/
def tplP1FlashLoadExtAddr : Template :=
  { constBits := 0x4D000000#32, addrMap := mapBits 8 16 1, inputMap := [], outputByte := none, poll := none }

/-- R250, P1.flash.READ_LO: `00100000 aaaaaaaa aaaaaaaa oooooooo`. -/
def tplP1FlashReadLo : Template :=
  { constBits := 0x20000000#32, addrMap := mapBits 8 0 16, inputMap := [], outputByte := some 3, poll := none }

/-- R251, P1.flash.READ_HI: `00101000 aaaaaaaa aaaaaaaa oooooooo`. -/
def tplP1FlashReadHi : Template :=
  { constBits := 0x28000000#32, addrMap := mapBits 8 0 16, inputMap := [], outputByte := some 3, poll := none }

/-- R252, P1.flash.LOADPAGE_LO: `01000000 000xxxxx xaaaaaaa iiiiiiii`. -/
def tplP1FlashLoadpageLo : Template :=
  { constBits := 0x40000000#32, addrMap := mapBits 8 0 7, inputMap := mapBits 0 0 8, outputByte := none, poll := none }

/-- R253, P1.flash.LOADPAGE_HI: `01001000 000xxxxx xaaaaaaa iiiiiiii`. -/
def tplP1FlashLoadpageHi : Template :=
  { constBits := 0x48000000#32, addrMap := mapBits 8 0 7, inputMap := mapBits 0 0 8, outputByte := none, poll := none }

/-- R254, P1.flash.WRITEPAGE: `01001100 aaaaaaaa axxxxxxx xxxxxxxx`. -/
def tplP1FlashWritepage : Template :=
  { constBits := 0x4C000000#32, addrMap := mapBits 15 7 9, inputMap := [], outputByte := none, poll := none }

/-- R255, P2.PGM_ENABLE: `10101100 01010011 xxxxxxxx xxxxxxxx`. -/
def tplP2PgmEnable : Template :=
  { constBits := 0xAC530000#32, addrMap := [], inputMap := [], outputByte := none, poll := none }

/-- R256, P2.flash.READ_LO: `00100000 xxxxxxxa aaaaaaaa oooooooo`. -/
def tplP2FlashReadLo : Template :=
  { constBits := 0x20000000#32, addrMap := mapBits 8 0 9, inputMap := [], outputByte := some 3, poll := none }

/-- R257, P2.flash.READ_HI: `00101000 xxxxxxxa aaaaaaaa oooooooo`. -/
def tplP2FlashReadHi : Template :=
  { constBits := 0x28000000#32, addrMap := mapBits 8 0 9, inputMap := [], outputByte := some 3, poll := none }

/-- R258, P2.flash.WRITE_LO: `01000000 xxxxxxxa aaaaaaaa iiiiiiii`. -/
def tplP2FlashWriteLo : Template :=
  { constBits := 0x40000000#32, addrMap := mapBits 8 0 9, inputMap := mapBits 0 0 8, outputByte := none, poll := none }

/-- R259, P2.flash.WRITE_HI: `01001000 xxxxxxxa aaaaaaaa iiiiiiii`. -/
def tplP2FlashWriteHi : Template :=
  { constBits := 0x48000000#32, addrMap := mapBits 8 0 9, inputMap := mapBits 0 0 8, outputByte := none, poll := none }

/-! ### The encoder -/

/-- The template of an instruction (43_isp_codec.md Part 3). -/
def Instr.template : Instr → Template
  | .p0PgmEnable => tplP0PgmEnable
  | .p0ChipErase => tplP0ChipErase
  | .p0FlashReadLo _ => tplP0FlashReadLo
  | .p0FlashReadHi _ => tplP0FlashReadHi
  | .p0FlashLoadpageLo _ _ => tplP0FlashLoadpageLo
  | .p0FlashLoadpageHi _ _ => tplP0FlashLoadpageHi
  | .p0FlashWritepage _ => tplP0FlashWritepage
  | .p0EepromRead _ => tplP0EepromRead
  | .p0EepromWrite _ _ => tplP0EepromWrite
  | .p0SignatureRead _ => tplP0SignatureRead
  | .p0LfuseRead => tplP0LfuseRead
  | .p0LfuseWrite _ => tplP0LfuseWrite
  | .p0HfuseRead => tplP0HfuseRead
  | .p0HfuseWrite _ => tplP0HfuseWrite
  | .p0EfuseRead => tplP0EfuseRead
  | .p0EfuseWrite _ => tplP0EfuseWrite
  | .p0LockRead => tplP0LockRead
  | .p0LockWrite _ => tplP0LockWrite
  | .p0CalibrationRead => tplP0CalibrationRead
  | .p1FlashLoadExtAddr _ => tplP1FlashLoadExtAddr
  | .p1FlashReadLo _ => tplP1FlashReadLo
  | .p1FlashReadHi _ => tplP1FlashReadHi
  | .p1FlashLoadpageLo _ _ => tplP1FlashLoadpageLo
  | .p1FlashLoadpageHi _ _ => tplP1FlashLoadpageHi
  | .p1FlashWritepage _ => tplP1FlashWritepage
  | .p2PgmEnable => tplP2PgmEnable
  | .p2FlashReadLo _ => tplP2FlashReadLo
  | .p2FlashReadHi _ => tplP2FlashReadHi
  | .p2FlashWriteLo _ _ => tplP2FlashWriteLo
  | .p2FlashWriteHi _ _ => tplP2FlashWriteHi

/-- The address operand of an instruction, if its pattern has `a` bits (R94). -/
def Instr.addr : Instr → Option Nat
  | .p0PgmEnable => none
  | .p0ChipErase => none
  | .p0FlashReadLo fa => some fa
  | .p0FlashReadHi fa => some fa
  | .p0FlashLoadpageLo fa _ => some fa
  | .p0FlashLoadpageHi fa _ => some fa
  | .p0FlashWritepage fa => some fa
  | .p0EepromRead fa => some fa
  | .p0EepromWrite fa _ => some fa
  | .p0SignatureRead fa => some fa
  | .p0LfuseRead => none
  | .p0LfuseWrite _ => none
  | .p0HfuseRead => none
  | .p0HfuseWrite _ => none
  | .p0EfuseRead => none
  | .p0EfuseWrite _ => none
  | .p0LockRead => none
  | .p0LockWrite _ => none
  | .p0CalibrationRead => none
  | .p1FlashLoadExtAddr fa => some fa
  | .p1FlashReadLo fa => some fa
  | .p1FlashReadHi fa => some fa
  | .p1FlashLoadpageLo fa _ => some fa
  | .p1FlashLoadpageHi fa _ => some fa
  | .p1FlashWritepage fa => some fa
  | .p2PgmEnable => none
  | .p2FlashReadLo fa => some fa
  | .p2FlashReadHi fa => some fa
  | .p2FlashWriteLo fa _ => some fa
  | .p2FlashWriteHi fa _ => some fa

/-- The data operand of an instruction, if its pattern has `i` bits (R95). -/
def Instr.input : Instr → Option Byte
  | .p0PgmEnable => none
  | .p0ChipErase => none
  | .p0FlashReadLo _ => none
  | .p0FlashReadHi _ => none
  | .p0FlashLoadpageLo _ d => some d
  | .p0FlashLoadpageHi _ d => some d
  | .p0FlashWritepage _ => none
  | .p0EepromRead _ => none
  | .p0EepromWrite _ d => some d
  | .p0SignatureRead _ => none
  | .p0LfuseRead => none
  | .p0LfuseWrite d => some d
  | .p0HfuseRead => none
  | .p0HfuseWrite d => some d
  | .p0EfuseRead => none
  | .p0EfuseWrite d => some d
  | .p0LockRead => none
  | .p0LockWrite d => some d
  | .p0CalibrationRead => none
  | .p1FlashLoadExtAddr _ => none
  | .p1FlashReadLo _ => none
  | .p1FlashReadHi _ => none
  | .p1FlashLoadpageLo _ d => some d
  | .p1FlashLoadpageHi _ d => some d
  | .p1FlashWritepage _ => none
  | .p2PgmEnable => none
  | .p2FlashReadLo _ => none
  | .p2FlashReadHi _ => none
  | .p2FlashWriteLo _ d => some d
  | .p2FlashWriteHi _ d => some d

/-- The command the block sends for an instruction (R104: `build(op[OPNAME], fa, d)`). -/
def encode (i : Instr) : Cmd := build i.template i.addr i.input

/-- The profiles whose opcode map holds the instruction: P1 uses P0's part-level templates, P2 uses P0's CHIP_ERASE
(R229, R102). -/
def Instr.profiles : Instr → List Profile
  | .p0PgmEnable => [.p0, .p1]
  | .p0ChipErase => [.p0, .p1, .p2]
  | .p0FlashReadLo _ => [.p0]
  | .p0FlashReadHi _ => [.p0]
  | .p0FlashLoadpageLo _ _ => [.p0]
  | .p0FlashLoadpageHi _ _ => [.p0]
  | .p0FlashWritepage _ => [.p0]
  | .p0EepromRead _ => [.p0]
  | .p0EepromWrite _ _ => [.p0]
  | .p0SignatureRead _ => [.p0]
  | .p0LfuseRead => [.p0]
  | .p0LfuseWrite _ => [.p0]
  | .p0HfuseRead => [.p0]
  | .p0HfuseWrite _ => [.p0]
  | .p0EfuseRead => [.p0]
  | .p0EfuseWrite _ => [.p0]
  | .p0LockRead => [.p0]
  | .p0LockWrite _ => [.p0]
  | .p0CalibrationRead => [.p0]
  | .p1FlashLoadExtAddr _ => [.p1]
  | .p1FlashReadLo _ => [.p1]
  | .p1FlashReadHi _ => [.p1]
  | .p1FlashLoadpageLo _ _ => [.p1]
  | .p1FlashLoadpageHi _ _ => [.p1]
  | .p1FlashWritepage _ => [.p1]
  | .p2PgmEnable => [.p2]
  | .p2FlashReadLo _ => [.p2]
  | .p2FlashReadHi _ => [.p2]
  | .p2FlashWriteLo _ _ => [.p2]
  | .p2FlashWriteHi _ _ => [.p2]

/-! ### The decoder -/

/-- One row of spec/opcode_table.json: the bits its pattern fixes, its template, and the instruction it reads. -/
structure Row where
  mask : Word
  template : Template
  make : Nat → Byte → Instr

/-- The row's fixed bits stand in the word. -/
def Row.accepts (r : Row) (w : Word) : Bool := w &&& r.mask == r.template.constBits

/-- The instruction the row reads from a word it accepts. -/
def Row.read (r : Row) (w : Word) : Instr :=
  r.make (gatherBits w r.template.addrMap) (BitVec.ofNat 8 (gatherBits w r.template.inputMap))

/-- P0's part-level rows (R230, R231). -/
def partRowsP0 : List Row :=
  [ { mask := 0xFFFF0000#32, template := tplP0PgmEnable, make := fun _ _ => .p0PgmEnable },
    { mask := 0xFFE00000#32, template := tplP0ChipErase, make := fun _ _ => .p0ChipErase } ]

/-- P0's region rows (R232 to R248). -/
def regionRowsP0 : List Row :=
  [ { mask := 0xFFC00000#32, template := tplP0FlashReadLo, make := fun fa _ => .p0FlashReadLo fa },
    { mask := 0xFFC00000#32, template := tplP0FlashReadHi, make := fun fa _ => .p0FlashReadHi fa },
    { mask := 0xFFE00000#32, template := tplP0FlashLoadpageLo, make := fun fa d => .p0FlashLoadpageLo fa d },
    { mask := 0xFFE00000#32, template := tplP0FlashLoadpageHi, make := fun fa d => .p0FlashLoadpageHi fa d },
    { mask := 0xFFC00000#32, template := tplP0FlashWritepage, make := fun fa _ => .p0FlashWritepage fa },
    { mask := 0xFFE00000#32, template := tplP0EepromRead, make := fun fa _ => .p0EepromRead fa },
    { mask := 0xFFE00000#32, template := tplP0EepromWrite, make := fun fa d => .p0EepromWrite fa d },
    { mask := 0xFFE00000#32, template := tplP0SignatureRead, make := fun fa _ => .p0SignatureRead fa },
    { mask := 0xFFFF0000#32, template := tplP0LfuseRead, make := fun _ _ => .p0LfuseRead },
    { mask := 0xFFFF0000#32, template := tplP0LfuseWrite, make := fun _ d => .p0LfuseWrite d },
    { mask := 0xFFFF0000#32, template := tplP0HfuseRead, make := fun _ _ => .p0HfuseRead },
    { mask := 0xFFFF0000#32, template := tplP0HfuseWrite, make := fun _ d => .p0HfuseWrite d },
    { mask := 0xFFFF0000#32, template := tplP0EfuseRead, make := fun _ _ => .p0EfuseRead },
    { mask := 0xFFFF0000#32, template := tplP0EfuseWrite, make := fun _ d => .p0EfuseWrite d },
    { mask := 0xFFFF0000#32, template := tplP0LockRead, make := fun _ _ => .p0LockRead },
    { mask := 0xFFE000C0#32, template := tplP0LockWrite, make := fun _ d => .p0LockWrite d },
    { mask := 0xFFE0FF00#32, template := tplP0CalibrationRead, make := fun _ _ => .p0CalibrationRead } ]

/-- P1's region rows (R249 to R254). -/
def regionRowsP1 : List Row :=
  [ { mask := 0xFFFFFEFF#32, template := tplP1FlashLoadExtAddr, make := fun fa _ => .p1FlashLoadExtAddr fa },
    { mask := 0xFF000000#32, template := tplP1FlashReadLo, make := fun fa _ => .p1FlashReadLo fa },
    { mask := 0xFF000000#32, template := tplP1FlashReadHi, make := fun fa _ => .p1FlashReadHi fa },
    { mask := 0xFFE00000#32, template := tplP1FlashLoadpageLo, make := fun fa d => .p1FlashLoadpageLo fa d },
    { mask := 0xFFE00000#32, template := tplP1FlashLoadpageHi, make := fun fa d => .p1FlashLoadpageHi fa d },
    { mask := 0xFF000000#32, template := tplP1FlashWritepage, make := fun fa _ => .p1FlashWritepage fa } ]

/-- P2's own part-level row (R255). -/
def partRowsP2 : List Row :=
  [ { mask := 0xFFFF0000#32, template := tplP2PgmEnable, make := fun _ _ => .p2PgmEnable } ]

/-- P2's region rows (R256 to R259). -/
def regionRowsP2 : List Row :=
  [ { mask := 0xFF000000#32, template := tplP2FlashReadLo, make := fun fa _ => .p2FlashReadLo fa },
    { mask := 0xFF000000#32, template := tplP2FlashReadHi, make := fun fa _ => .p2FlashReadHi fa },
    { mask := 0xFF000000#32, template := tplP2FlashWriteLo, make := fun fa d => .p2FlashWriteLo fa d },
    { mask := 0xFF000000#32, template := tplP2FlashWriteHi, make := fun fa d => .p2FlashWriteHi fa d } ]

/-- The opcode map of a profile. P1 uses P0's part-level templates, P2 uses P0's CHIP_ERASE (R229, R102). -/
def Profile.rows : Profile → List Row
  | .p0 => partRowsP0 ++ regionRowsP0
  | .p1 => partRowsP0 ++ regionRowsP1
  | .p2 => partRowsP2 ++ partRowsP0.drop 1 ++ regionRowsP2

/-- Why bytes are no instruction of a profile. -/
inductive DecodeError where
  /-- Not exactly 4 bytes (R90). -/
  | notFourBytes
  /-- No row of the profile's opcode map has its fixed bits in the word (R103). -/
  | noSuchOpcode
deriving DecidableEq, Repr

/-- The instruction a profile reads from a word: that of the first row that accepts it (the rows of one profile do not
overlap, so there is at most one). -/
def decodeWord (p : Profile) (w : Word) : Option Instr :=
  (p.rows.find? fun r => r.accepts w).map fun r => r.read w

/-- The decoder, total on any bytes. -/
def decode (p : Profile) : List Byte → Except DecodeError Instr
  | [c0, c1, c2, c3] =>
    match decodeWord p (Cmd.word ⟨c0, c1, c2, c3⟩) with
    | some i => .ok i
    | none => .error .noSuchOpcode
  | _ => .error .notFourBytes

/-! ### A word read without a profile (log 7)

P0, P1 and P2 share words (R230 and R255 have one pattern). Where no profile is given, a word is read as the first row,
in the table's order, for which it is the word the block itself sends; else as the first row that accepts it. -/

/-- Every row with its profile, in the order of spec/opcode_table.json. -/
def allRows : List (Profile × Row) :=
  (partRowsP0 ++ regionRowsP0).map (Prod.mk .p0) ++ regionRowsP1.map (Prod.mk .p1)
    ++ (partRowsP2 ++ regionRowsP2).map (Prod.mk .p2)

/-- The word is the one the block sends for the row's instruction: its `x` and `o` bits are 0. -/
def Row.sends (r : Row) (w : Word) : Bool := r.accepts w && (encode (r.read w)).word == w

/-- The profile and the row a word is read with where no profile is given. -/
def rowOfWord (w : Word) : Option (Profile × Row) :=
  match allRows.find? (fun e => e.2.sends w) with
  | some e => some e
  | none => allRows.find? (fun e => e.2.accepts w)

/-- The bytes in wire order of an instruction whose bits are w, numbered as spec/opcode_table.json numbers them. -/
def tableBytes (nbits w : Nat) : List Byte := (Cmd.ofWord (BitVec.ofNat 32 (w % 2 ^ nbits))).bytes

/-- The profile a table word is read in; P0 for a word no profile reads. -/
def tableProfile (nbits w : Nat) : Profile :=
  match rowOfWord (BitVec.ofNat 32 (w % 2 ^ nbits)) with
  | some e => e.1
  | none => .p0

/-- The instruction the decoder reads from a table word: its bytes, in the profile of `tableProfile`. -/
def decodeTableWord (nbits w : Nat) : Option Instr :=
  match decode (tableProfile nbits w) (tableBytes nbits w) with
  | .ok i => some i
  | .error _ => none

end Sys2Proof
end

