-- ==== Sys2Proof/Machine/Profiles.lean ====
section
/-! DEFINITION. The part descriptors of the reference profiles (43_isp_codec.md R229), and the configuration that
95_test_vectors.md §0 uses with them. They are the spec's test fixtures (spec's own mark: from general knowledge). -/

namespace Sys2Proof.Machine

/-- A region that is not paged, with one sentinel list and the fixed `poll_value` 0xFF (R229). -/
def byteRegion (size minUs maxUs eraseUs : Nat) (sentinels : List Byte) (ops : OpTable) : Region :=
  { size := size, pageSize := 0, minWriteDelayUs := minUs, maxWriteDelayUs := maxUs, chipEraseDelayUs := eraseUs,
    pollValue := 0xFF#8, pollSentinels := sentinels, ops := ops }

/-- P0, ATmega328P-like (R229). The write delays of the read-only regions, `—` in the table, are 0 (log 20). -/
def partP0 : PartDescriptor :=
  { regions :=
      [ (.flash,
          { size := 32768, pageSize := 128, minWriteDelayUs := 4500, maxWriteDelayUs := 4500, chipEraseDelayUs := 9000,
            pollValue := 0xFF#8, pollSentinels := [0xFF#8],
            ops := { readLo := some tplP0FlashReadLo, readHi := some tplP0FlashReadHi,
                     loadpageLo := some tplP0FlashLoadpageLo, loadpageHi := some tplP0FlashLoadpageHi,
                     writepage := some tplP0FlashWritepage } }),
        (.eeprom, byteRegion 1024 3600 3600 9000 [0xFF#8] { read := some tplP0EepromRead, write := some tplP0EepromWrite }),
        (.signature, byteRegion 3 0 0 9000 [] { read := some tplP0SignatureRead }),
        (.lfuse, byteRegion 1 4500 4500 9000 [] { read := some tplP0LfuseRead, write := some tplP0LfuseWrite }),
        (.hfuse, byteRegion 1 4500 4500 9000 [] { read := some tplP0HfuseRead, write := some tplP0HfuseWrite }),
        (.efuse, byteRegion 1 4500 4500 9000 [] { read := some tplP0EfuseRead, write := some tplP0EfuseWrite }),
        (.lock, byteRegion 1 4500 4500 9000 [] { read := some tplP0LockRead, write := some tplP0LockWrite }),
        (.calibration, byteRegion 1 0 0 9000 [] { read := some tplP0CalibrationRead }) ],
    pgmEnable := some tplP0PgmEnable,
    chipErase := some tplP0ChipErase,
    chipEraseDelayUs := 9000 }

/-- P1, ATmega2560-like, flash only, with P0's part-level templates and delay (R229). -/
def partP1 : PartDescriptor :=
  { regions :=
      [ (.flash,
          { size := 262144, pageSize := 256, minWriteDelayUs := 4500, maxWriteDelayUs := 4500, chipEraseDelayUs := 9000,
            pollValue := 0xFF#8, pollSentinels := [0xFF#8],
            ops := { readLo := some tplP1FlashReadLo, readHi := some tplP1FlashReadHi,
                     loadpageLo := some tplP1FlashLoadpageLo, loadpageHi := some tplP1FlashLoadpageHi,
                     writepage := some tplP1FlashWritepage, loadExtAddr := some tplP1FlashLoadExtAddr } }) ],
    pgmEnable := some tplP0PgmEnable,
    chipErase := some tplP0ChipErase,
    chipEraseDelayUs := 9000 }

/-- P2, AT90S1200-like: no echo, word flash that is not paged (R229). -/
def partP2 : PartDescriptor :=
  { regions :=
      [ (.flash, byteRegion 1024 9000 20000 20000 [0xFF#8]
          { readLo := some tplP2FlashReadLo, readHi := some tplP2FlashReadHi,
            writeLo := some tplP2FlashWriteLo, writeHi := some tplP2FlashWriteHi }) ],
    pgmEnable := some tplP2PgmEnable,
    chipErase := some tplP0ChipErase,
    chipEraseDelayUs := 20000 }

/-- Every pin the block may drive or sample assigned to a line of its own, none inverted, no LED (log 1). -/
def allPinsAssigned : PinConfig :=
  { sck := ⟨some 0, false⟩, sdo := ⟨some 1, false⟩, sdi := ⟨some 2, false⟩, reset := ⟨some 3, false⟩,
    leds := [], power := ⟨some 4, false⟩ }

/-- A part with the fixture of 95_test_vectors.md §0: R8's defaults, all pins assigned, empty preamble and postamble. -/
def fixtureConfig (part : PartDescriptor) : Configuration :=
  { part := part, pins := allPinsAssigned, params := Config.defaultParams, initPreamble := [], disablePostamble := [] }

end Sys2Proof.Machine
end

