-- ==== Sys2Proof/Machine/State.lean ====
section
/-! DEFINITION. The machine's state as plain data (10_state.md), the host's requests, the observation (R47), the typed
errors (60_exceptions.md R330), the refusals (R348), and the state when a session is created (R50, R371). -/

namespace Sys2Proof.Machine

/-- The session state (R40). -/
inductive Fsm where
  | disconnected | resyncing | enabled | reading | writing | erasing | disabled
deriving DecidableEq, Repr

/-- An opcode a host call needs (R24, R331): a region's, or a part-level one. -/
inductive NeededOp where
  | region (m : RegionName) (op : OpName)
  | pgmEnable
  | chipErase
deriving DecidableEq, Repr

/-- The kinds of `FrameError` with what they carry (R174, R330). -/
inductive FrameError where
  | noStartBit
  | parityMismatch (d : Byte) (p : Bool)
  | framingError (s1 s2 : Bool)
deriving DecidableEq, Repr

/-- The typed errors (R330). They are returned values: a call that ends in one is a next state (R336, R339). -/
inductive Err where
  /-- E1, a required pin is unassigned -/
  | unassignedPin (p : Pin)
  /-- E1, a needed template is undefined -/
  | undefinedOpcode (o : NeededOp)
  /-- E2 -/
  | resyncExhausted (attempts : Nat)
  /-- E3 -/
  | pollTimeout (m : RegionName) (addr : Nat) (expected observed : Byte)
  /-- E4 -/
  | frame (k : FrameError)
  /-- E5, the backend's error value unchanged -/
  | transport (e : Nat)
deriving DecidableEq, Repr

/-- What a request returns to the host (R47). -/
inductive CallResult where
  | ok
  /-- a byte read by `transmit_byte`, `rx_byte` or a READ-class instruction -/
  | byte (b : Byte)
  /-- the bytes of `read_memory` or `cmd_tpi` -/
  | bytes (bs : List Byte)
  /-- the response of `transmit_cmd` -/
  | response (res : Cmd)
  /-- PGM_ENABLE sent by itself: whether the echo matched, `none` where nothing is checked (R210) -/
  | enableAttempt (echo : Option Bool)
  | error (e : Err)
deriving DecidableEq, Repr

/-- One event of the trace (R47): a PinTransport call that was performed, or a progress event (R310). -/
inductive Event where
  | set (p : Pin) (v : Bool)
  | get (p : Pin) (v : Bool)
  | pulse (p : Pin)
  | delay (us : Nat)
  | progress (done total : Nat)
deriving DecidableEq, Repr

/-- The host calls (R7, R260). -/
inductive HostCall where
  | initialise
  | readMemory (m : RegionName) (start n : Nat)
  | writeMemory (m : RegionName) (start : Nat) (data : List Byte)
  | chipErase
  | disable
deriving DecidableEq, Repr

/-- The calls of the two bit engines (R150, R151, R172, R174, R177). -/
inductive EngineCall where
  | transmitByte (b : Byte)
  | transmitCmd (c : Cmd)
  | txByte (b : Byte)
  | rxByte
  | cmdTpi (tx : List Byte) (n : Nat)
deriving DecidableEq, Repr

/-- One request of the host (log 5): a host call, an engine call, or one ISP word as bytes, `cmd[0]` first (R104). -/
inductive Request where
  | host (c : HostCall)
  | engine (c : EngineCall)
  | isp (bytes : List Byte)
deriving DecidableEq, Repr

/-- Bytes by address in canonical form: addresses strictly rising; an unlisted address holds nothing (R45). -/
abbrev Memory := List Host.Cell

/-- The state. Configuration: R20 to R29. Pins: R31. Session: R40 to R45. Trace and results: R47. The rest is the
model's own: the host's requests (log 5), the profile its ISP words are read in (log 6), and the environment's inputs
(log 3, log 4). -/
structure State where
  cfg : Configuration
  lvlSck : Bool
  lvlSdo : Bool
  lvlAux : List (Pin × Bool)
  fsm : Fsm
  resyncTries : Nat
  peOk : Bool
  extLast : Option Nat
  pollTries : Nat
  cursor : Nat
  pageVals : Memory
  trace : List Event
  results : List CallResult
  pending : List Request
  profile : Profile
  sdiIn : List Bool
  sdiDraws : Nat
  ioFaults : List (Option Nat)
  ioDraws : Nat
deriving DecidableEq, Repr

/-- No step of the block ends in a fault: every error is a returned value (R336), and no item of the block is stuck
(93_implementation_defined.md Part 1), so there is no reason to name. -/
inductive Fault where
deriving DecidableEq, Repr

/-- Why a step has no next state: the uses R348 says the model has no step for. -/
inductive Refusal where
  /-- Raised by `exec` for an instruction without a meaning; no arm raises it. Safe. -/
  | notModelled (mnemonic : String)
  /-- Raised by a host call in a state that R260 does not list. Safe. -/
  | illegalState (fsm : Fsm)
  /-- Raised by `read_memory` and `write_memory` when start + n > size (R311). Safe. -/
  | outOfRange (m : RegionName) (start n : Nat)
  /-- Raised by a host call that names a region the descriptor does not have (log 15). Safe. -/
  | noSuchRegion (m : RegionName)
  /-- Raised by step for a configuration that is not well-formed: no session exists (R348, log 16). Safe. -/
  | illFormedConfiguration
  /-- Raised by step for bytes that are no ISP instruction of the selected profile (R103, log 6). Safe. -/
  | undecodable (e : DecodeError)
deriving DecidableEq, Repr

/-- The state when a session is created (R50, R371). The configuration is the P0 fixture (log 1); `lvl[Sdo]` is the
free value R50 asks for (log 2). -/
def State.reset : State :=
  { cfg := fixtureConfig partP0
    lvlSck := false
    lvlSdo := Config.sdoAtReset
    lvlAux := []
    fsm := .disconnected
    resyncTries := 0
    peOk := false
    extLast := none
    pollTries := 0
    cursor := 0
    pageVals := []
    trace := []
    results := []
    pending := []
    profile := .p0
    sdiIn := []
    sdiDraws := 0
    ioFaults := []
    ioDraws := 0 }

end Sys2Proof.Machine
end

