-- ==== Sys2Proof/Machine/Ops.lean ====
section
/-! DEFINITION. The shared operations: `page_vals` as memory, pin levels, the four PinTransport calls with the
environment's draws (40_pin_transport.md), and how a call ends: with a result, or with a typed error (60_exceptions.md). -/

namespace Sys2Proof.Machine

/-! ### Bytes by address (R45) -/

/-- The byte at an address, if one is listed. -/
def Memory.read? : Memory → Nat → Option Byte
  | [], _ => none
  | c :: rest, a => if c.1 = a then some c.2 else Memory.read? rest a

/-- `mem[a] <- b`, keeping addresses strictly rising. -/
def Memory.store : Memory → Nat → Byte → Memory
  | [], a, b => [(a, b)]
  | c :: rest, a, b =>
    if a < c.1 then (a, b) :: c :: rest
    else if a = c.1 then (a, b) :: rest
    else c :: Memory.store rest a b

/-- The canonical form: addresses strictly rising. -/
def Memory.wf : Memory → Bool
  | [] => true
  | [_] => true
  | c :: d :: rest => c.1 < d.1 && Memory.wf (d :: rest)

/-- `max(cand)` of R291: the highest-addressed listed byte that is not 0xFF. -/
def Memory.highestNotErased : Memory → Option Host.Cell
  | [] => none
  | c :: rest =>
    match Memory.highestNotErased rest with
    | some x => if c.2 ≠ 0xFF#8 ∧ x.1 < c.1 then some c else some x
    | none => if c.2 ≠ 0xFF#8 then some c else none

/-! ### How a part of a call ends (R11) -/

/-- A part of a call: done with a value, or a typed error raised, each with the state it leaves. -/
inductive Run (α : Type) where
  | done (a : α) (s : State)
  | raised (e : Err) (s : State)
deriving DecidableEq, Repr

/-- The next part runs where this one is done; an error ends the call at once (R11, R338). -/
def Run.bind {α β : Type} (r : Run α) (k : α → State → Run β) : Run β :=
  match r with
  | .done a s => k a s
  | .raised e s => .raised e s

/-! ### Pins (R27, R31) -/

/-- The entry of a pin; a LED the configuration does not list is unassigned. -/
def pinEntry (c : PinConfig) : Pin → PinEntry
  | .sck => c.sck
  | .sdo => c.sdo
  | .sdi => c.sdi
  | .reset => c.reset
  | .led n => c.leds.getD n ⟨none, false⟩
  | .power => c.power

/-- The level last driven on a pin other than Sck and Sdo, if it was driven (log 14). -/
def auxLevel : List (Pin × Bool) → Pin → Option Bool
  | [], _ => none
  | e :: rest, p => if e.1 = p then some e.2 else auxLevel rest p

/-- Replaces the level of a pin, or lists it behind the others. -/
def setAux : List (Pin × Bool) → Pin → Bool → List (Pin × Bool)
  | [], p, v => [(p, v)]
  | e :: rest, p, v => if e.1 = p then (p, v) :: rest else e :: setAux rest p v

/-- `lvl[p]`, where the block holds one (R31). -/
def State.lvl (s : State) : Pin → Option Bool
  | .sck => some s.lvlSck
  | .sdo => some s.lvlSdo
  | p => auxLevel s.lvlAux p

/-- `lvl[p] <- v` (R130). Nothing keeps a preamble or a postamble from a `Set` of `Sdi`, for which R32 says the block
holds no state: R130 is followed for it too, and its level stands in `lvlAux` (DESIGN CHOICE, log 14). No `Get` reads it:
what a `Get(Sdi)` returns is drawn (R131). -/
def State.setLvl (s : State) (p : Pin) (v : Bool) : State :=
  match p with
  | .sck => { s with lvlSck := v }
  | .sdo => { s with lvlSdo := v }
  | p => { s with lvlAux := setAux s.lvlAux p v }

/-- The electrical level on an output pin's line, `lvl[p] xor inverted(p)` (R31). -/
def State.line (s : State) (p : Pin) : Option Bool :=
  (s.lvl p).map fun v => v ^^ (pinEntry s.cfg.pins p).inverted

/-- What a pulse drives on a pin that holds level `l`: the two logical levels, each with the delay after it (R132). It
is one event of the trace: the inner edges and delays are not observed (log 19). -/
def pulseEdges (c : Configuration) (l : Bool) : List (Bool × Nat) :=
  [(!l, c.params.bitDelayUs), (l, c.params.bitDelayUs)]

/-! ### The trace and the environment -/

/-- `Emit(ev)`, and what each transport call appends (R11, R47). -/
def State.emit (s : State) (ev : Event) : State :=
  { s with trace := s.trace ++ [ev] }

/-- The environment's draw whether the next transport call fails, and with which error value (R136; log 4). -/
def State.nextFault (s : State) : Option Nat :=
  match s.ioFaults with
  | [] => Config.transportFault s.ioDraws
  | f :: _ => f

/-- The state with that draw made. -/
def State.drawFault (s : State) : State :=
  { s with ioFaults := s.ioFaults.tail, ioDraws := s.ioDraws + 1 }

/-- The environment's draw of the electrical level on a sampled pin (R70, R131; log 3). -/
def State.nextLevel (s : State) : Bool :=
  match s.sdiIn with
  | [] => Config.sdiLevel s.sdiDraws
  | v :: _ => v

/-- The state with that draw made. -/
def State.drawLevel (s : State) : State :=
  { s with sdiIn := s.sdiIn.tail, sdiDraws := s.sdiDraws + 1 }

/-- A transport call: it fails with `TransportError` and has no further effect, or it has its effect (R136). -/
def transportCall {α : Type} (s : State) (effect : State → Run α) : Run α :=
  match s.nextFault with
  | some e => .raised (.transport e) s.drawFault
  | none => effect s.drawFault

/-- `Set(p, v)` (R130). -/
def setPin (p : Pin) (v : Bool) (s : State) : Run Unit :=
  transportCall s fun s => .done () ((s.setLvl p v).emit (.set p v))

/-- `Get(p)`: the logical level is the drawn electrical level xor `inverted(p)` (R131). -/
def getPin (p : Pin) (s : State) : Run Bool :=
  transportCall s fun s =>
    let v := s.nextLevel ^^ (pinEntry s.cfg.pins p).inverted
    .done v (s.drawLevel.emit (.get p v))

/-- `Pulse(p)`: the level is restored, so no level changes (R132). -/
def pulse (p : Pin) (s : State) : Run Unit :=
  transportCall s fun s => .done () (s.emit (.pulse p))

/-- `Delay(us)` (R133). -/
def delay (us : Nat) (s : State) : Run Unit :=
  transportCall s fun s => .done () (s.emit (.delay us))

/-- One operation of the preamble or the postamble (R372, R383). -/
def runPinOp (op : PinOp) (s : State) : Run Unit :=
  match op with
  | .set p v => setPin p v s
  | .pulse p => pulse p s
  | .delay us => delay us s

/-- Operations of the preamble or the postamble, one after another (R372, R383). -/
def runPinOps : List PinOp → State → Run Unit
  | [], s => .done () s
  | op :: ops, s => (runPinOp op s).bind fun _ s => runPinOps ops s

/-- `InitPreamble` or `DisablePostamble` (R372, R383). Where a transport error ends the list, `lvl[Sck]` returns to its
value at the list's start, as `fsm` does (R335): a call boundary has `lvl[Sck] = 0` (R312 (b), R33; log 21). -/
def runPinList (ops : List PinOp) (s : State) : Run Unit :=
  match runPinOps ops s with
  | .done u t => .done u t
  | .raised e t => .raised e { t with lvlSck := s.lvlSck }

/-! ### How a call ends: the one shared operation for errors, and the one for results -/

/-- `fsm` after an error in a call that began with `fsm0` (R330, R260): the value at the start of the call, but Enabled
after `ResyncExhausted` and `PollTimeout`; `FrameError` changes no session state. -/
def fsmAfterError (fsm0 : Fsm) (e : Err) : Fsm :=
  match e with
  | .unassignedPin _ => fsm0
  | .undefinedOpcode _ => fsm0
  | .resyncExhausted _ => .enabled
  | .pollTimeout _ _ _ _ => .enabled
  | .frame _ => fsm0
  | .transport _ => fsm0

/-- `page_vals` after an error: emptied by `PollTimeout` (R333) and `TransportError` (R335), else unchanged. -/
def pageValsAfterError (m : Memory) (e : Err) : Memory :=
  match e with
  | .unassignedPin _ => m
  | .undefinedOpcode _ => m
  | .resyncExhausted _ => m
  | .pollTimeout _ _ _ _ => []
  | .frame _ => m
  | .transport _ => []

/-- A typed error ends the call (R330, R335, R339): the error is returned to the host and the next request begins from
this state. `pe_ok` and the counters keep the last value written; nothing is saved. -/
def raiseError (fsm0 : Fsm) (e : Err) (s : State) : State :=
  { s with
    fsm := fsmAfterError fsm0 e
    pageVals := pageValsAfterError s.pageVals e
    results := s.results ++ [.error e] }

/-- `return v`: the call ends with its result (R11). -/
def returnResult (r : CallResult) (s : State) : State :=
  { s with results := s.results ++ [r] }

/-- A call that began with `fsm0` ends. -/
def complete (fsm0 : Fsm) : Run CallResult → State
  | .done r s => returnResult r s
  | .raised e s => raiseError fsm0 e s

/-- What a call does where its configuration checks name no error: it runs, and ends by `complete`. A failed check is
raised before any transport call and leaves everything else unchanged (R135, R261, R331). -/
def checked (check : Option Err) (s : State) (body : State → Run CallResult) : State :=
  match check with
  | some e => raiseError s.fsm e s
  | none => complete s.fsm (body s)

end Sys2Proof.Machine
end

