-- ==== Sys2Proof/Machine/Flags.lean ====
section
/-! DEFINITION. The flag, the counters and the two bit checks of the block: `pe_ok` and `resync_tries` (R41, R42),
`poll_tries` (R44), the echo check (R267) and the even-parity bit (R175). The block has no condition codes (R42). -/

namespace Sys2Proof.Machine

/-- `tpiParity(b) = b[0] xor … xor b[7]` (R175). -/
def tpiParity (b : Byte) : Bool :=
  b.getLsbD 0 ^^ b.getLsbD 1 ^^ b.getLsbD 2 ^^ b.getLsbD 3 ^^ b.getLsbD 4 ^^ b.getLsbD 5 ^^ b.getLsbD 6 ^^ b.getLsbD 7

/-- `EchoOk` for a poll field `(idx, val)`: `res[idx] = val` (R267, R97). -/
def echoOk (poll : Fin 4 × Byte) (res : Cmd) : Bool := res.byte poll.1 == poll.2

/-- What a handshake starts from: `resync_tries <- 0; pe_ok <- false` (R265, R300). -/
def State.clearHandshake (s : State) : State := { s with resyncTries := 0, peOk := false }

/-- `pe_ok <- true; fsm <- Enabled` (R265, R266). -/
def State.handshakeOk (s : State) : State := { s with peOk := true, fsm := .enabled }

/-- `pe_ok <- false; fsm <- Enabled`, at the resync bound (R266). -/
def State.handshakeFailed (s : State) : State := { s with peOk := false, fsm := .enabled }

/-- `resync_tries <- resync_tries + 1` (R266). -/
def State.countResync (s : State) : State := { s with resyncTries := s.resyncTries + 1 }

/-- `poll_tries <- 0` (R282). -/
def State.clearPoll (s : State) : State := { s with pollTries := 0 }

/-- `poll_tries <- poll_tries + 1` (R282). -/
def State.countPoll (s : State) : State := { s with pollTries := s.pollTries + 1 }

end Sys2Proof.Machine
end

