-- ==== Sys2Proof/Machine/Operands.lean ====
section
/-! DEFINITION. The operand forms: field addresses (R30, R94), page bases (R69), opcode selection (R262), and the checks
a host call makes of its configuration before it touches a pin (R261, R331, R338). -/

namespace Sys2Proof.Machine

/-- `op[OPNAME]` of a region (R21, R24). -/
def regionOp (m : Region) : OpName → Option Template
  | .read => m.ops.read
  | .readLo => m.ops.readLo
  | .readHi => m.ops.readHi
  | .write => m.ops.write
  | .writeLo => m.ops.writeLo
  | .writeHi => m.ops.writeHi
  | .loadpageLo => m.ops.loadpageLo
  | .loadpageHi => m.ops.loadpageHi
  | .writepage => m.ops.writepage
  | .loadExtAddr => m.ops.loadExtAddr

/-- Word-organised: `READ_LO` is defined (R25). -/
def wordOrganised (m : Region) : Bool := m.ops.readLo.isSome

/-- Paged: `page_size > 0` and `WRITEPAGE` is defined (R26). -/
def paged (m : Region) : Bool := 0 < m.pageSize && m.ops.writepage.isSome

/-- The field address of a byte address (R30). -/
def fieldAddr (m : Region) (a : Nat) : Nat := if wordOrganised m then a >>> 1 else a

/-- The window of a field address, of `2^AddrFieldBits` field addresses (R74): `fa >> 16` at R8's value (R43, R264;
log 17). -/
def window (p : Params) (fa : Nat) : Nat := fa >>> p.addrFieldBits

/-- The base of the page a byte address lies in, `a - (a mod P)` (R69, R290). -/
def pageBase (m : Region) (a : Nat) : Nat := a - a % m.pageSize

/-- The three kinds of access that `sel` chooses an opcode for (R262). -/
inductive AccessKind where
  | read | write | loadpage
deriving DecidableEq, Repr

/-- `sel(m, kind, a)`, as an operation name (R262). -/
def sel (m : Region) (kind : AccessKind) (a : Nat) : OpName :=
  if wordOrganised m then
    match kind with
    | .read => if a % 2 = 0 then .readLo else .readHi
    | .write => if a % 2 = 0 then .writeLo else .writeHi
    | .loadpage => if a % 2 = 0 then .loadpageLo else .loadpageHi
  else
    match kind with
    | .read => .read
    | .write => .write
    | .loadpage => .loadpageLo

/-- The opcode class of a kind of access: every name `sel` can give for it (R261). -/
def opClass (m : Region) (kind : AccessKind) : List OpName :=
  if wordOrganised m then
    match kind with
    | .read => [.readLo, .readHi]
    | .write => [.writeLo, .writeHi]
    | .loadpage => [.loadpageLo, .loadpageHi]
  else
    match kind with
    | .read => [.read]
    | .write => [.write]
    | .loadpage => [.loadpageLo]

/-- The region of a name (R20). -/
def findRegion (s : State) (rn : RegionName) : Option Region :=
  (s.cfg.part.regions.find? fun e => e.1 == rn).map Prod.snd

/-! ### Configuration checks -/

/-- The pin an operation of the preamble or the postamble names. -/
def pinOpPin? : PinOp → Option Pin
  | .set p _ => some p
  | .pulse p => some p
  | .delay _ => none

/-- The pins the block's own rules drive and sample, in the order they are checked (R28, R338). -/
def wirePins : List Pin := [.sck, .sdo, .sdi]

/-- The required pins in the order they are checked (R28, R261, R338); the postamble's come last (log 11). -/
def requiredPins (c : Configuration) : List Pin :=
  wirePins ++ c.initPreamble.filterMap pinOpPin? ++ c.disablePostamble.filterMap pinOpPin?

/-- The first of the listed pins that is unassigned: a configuration error, found before any exchange (R135). -/
def unassignedAmong? (c : Configuration) (ps : List Pin) : Option Err :=
  (ps.find? fun p => (pinEntry c.pins p).line.isNone).map .unassignedPin

/-- The first required pin that is unassigned (R135, R261). -/
def unassignedPin? (c : Configuration) : Option Err := unassignedAmong? c (requiredPins c)

/-- The check of an ISP word sent by itself: the pins its exchange operates (R135, log 10). -/
def checkWires (c : Configuration) : Option Err := unassignedAmong? c wirePins

/-- The required pins that the postamble operates, in the order the required pins are checked (R338). -/
def disablePins (c : Configuration) : List Pin :=
  (requiredPins c).filter fun p => decide (p ∈ c.disablePostamble.filterMap pinOpPin?)

/-- The check of `disable`: the pins its postamble operates (R135, log 10), in R338's order. -/
def checkDisable (c : Configuration) : Option Err := unassignedAmong? c (disablePins c)

/-- The pins an engine call operates, in the order of R338: an exchange and a receive all three, a TPI send `Sck` and
`Sdo` (R150, R171, R173, R174). -/
def enginePins : EngineCall → List Pin
  | .transmitByte _ => wirePins
  | .transmitCmd _ => wirePins
  | .txByte _ => [.sck, .sdo]
  | .rxByte => wirePins
  | .cmdTpi tx n => (if tx = [] ∧ n = 0 then [] else [.sck, .sdo]) ++ (if n = 0 then [] else [.sdi])

/-- The check of an engine call: the pins it operates (R135, log 10). -/
def checkEngine (c : Configuration) (call : EngineCall) : Option Err := unassignedAmong? c (enginePins call)

/-- The first of the region's listed opcodes that is undefined (R261, R331). -/
def undefinedRegionOp? (rn : RegionName) (m : Region) (os : List OpName) : Option Err :=
  (os.find? fun o => (regionOp m o).isNone).map fun o => .undefinedOpcode (.region rn o)

/-- A part-level opcode that is undefined (R261, R331). -/
def undefinedPartOp? (T : Option Template) (o : NeededOp) : Option Err :=
  match T with
  | some _ => none
  | none => some (.undefinedOpcode o)

/-- The checks of `initialize`: the pins, then PGM_ENABLE (R261). -/
def checkInitialise (c : Configuration) : Option Err :=
  (unassignedPin? c).or (undefinedPartOp? c.part.pgmEnable .pgmEnable)

/-- The checks of `chip_erase`: CHIP_ERASE, then PGM_ENABLE (R261). -/
def checkChipErase (c : Configuration) : Option Err :=
  (undefinedPartOp? c.part.chipErase .chipErase).or (undefinedPartOp? c.part.pgmEnable .pgmEnable)

/-- The opcodes `read_memory` needs: the read class (R261). -/
def readNeeds (m : Region) : List OpName := opClass m .read

/-- The opcodes `write_memory` needs: the load class, WRITEPAGE and the read class of a paged region, the write class
and the read class of another (R261). -/
def writeNeeds (m : Region) : List OpName :=
  if paged m then opClass m .loadpage ++ [.writepage] ++ opClass m .read
  else opClass m .write ++ opClass m .read

end Sys2Proof.Machine
end

