-- ==== Sys2Proof/Machine/Spi.lean ====
section
/-! DEFINITION. The SPI bit-serializer (41_spi_engine.md) and the codec helper `Issue` (43_isp_codec.md R202). -/

namespace Sys2Proof.Machine

/-- The bit times of `transmit_byte` for the listed bit indexes: sample, drive, pulse (R150). -/
def transmitBits (b : Byte) : List Nat → Byte → State → Run Byte
  | [], r, s => .done r s
  | i :: rest, r, s =>
    (getPin .sdi s).bind fun v s =>
    (setPin .sdo (b.getLsbD i) s).bind fun _ s =>
    (pulse .sck s).bind fun _ s =>
    transmitBits b rest (r ||| ((BitVec.ofBool v).setWidth 8 <<< i)) s

/-- `transmit_byte(b)`: most significant bit first (R150, R63). -/
def transmitByte (b : Byte) (s : State) : Run Byte :=
  transmitBits b [7, 6, 5, 4, 3, 2, 1, 0] 0#8 s

/-- `transmit_cmd(cmd)`: the four bytes in index order (R151, R65). -/
def transmitCmd (c : Cmd) (s : State) : Run Cmd :=
  (transmitByte c.b0 s).bind fun r0 s =>
  (transmitByte c.b1 s).bind fun r1 s =>
  (transmitByte c.b2 s).bind fun r2 s =>
  (transmitByte c.b3 s).bind fun r3 s =>
  .done ⟨r0, r1, r2, r3⟩ s

/-- `Issue(T, addr, input)` (R202). -/
def issue (T : Template) (addr : Option Nat) (input : Option Byte) (s : State) : Run Cmd :=
  transmitCmd (build T addr input) s

end Sys2Proof.Machine
end

