-- ==== Sys2Proof/Machine/Isp.lean ====
section
/-! DEFINITION. What the classes of ISP instructions do (43_isp_codec.md Part 2), each over its template. An instruction
sent by itself is `transmit_cmd(build(template, fa, d))` (R104) and what its class reads from the response. An unassigned
pin of the exchange is a `ConfigError` before it (R135, log 10); the session state is not checked (log 6); and a
transport error ends the instruction as it ends a host call (R335).

What a rule puts around a word is kept by the host calls only, and the order of single words is in the host's hands (DESIGN
CHOICE, unsafe; log 6): an addressed word of a region with a LOAD_EXT_ADDR template goes out with none before it, whatever
`ext_last` holds (R101, R213, R214, R264); a WRITE with no pre-read (R215 to R217, R281); and nothing follows a word (R79,
R284, R293, R374, R375). -/

namespace Sys2Proof.Machine

/-- An ISP word sent by itself: its pins are checked (R135, log 10), then the class's exchange runs. -/
def ispCall (body : State → Run CallResult) (s : State) : State := checked (checkWires s.cfg) s body

/-- PGM_ENABLE (R210): whether the echo matched is the result; `pe_ok` is written by `initialize` only (log 26). Sent by
itself it is one attempt, in no handshake: no pulse and no other attempt follows a failed one (R266; log 6). -/
def ispEnable (T : Template) : State → State :=
  ispCall fun s => (issue T none none s).bind fun res s => .done (.enableAttempt (T.poll.map fun p => echoOk p res)) s

/-- READ, READ_LO, READ_HI and read signature (R212, R213, R214, R222). Sent by itself a READ_LO or READ_HI word goes out
with no LOAD_EXT_ADDR before it, whatever `ext_last` holds, where R101 and the corner case of R213 and R214 have the block
send one when the window changes (R264; DESIGN CHOICE, unsafe; log 6). -/
def ispRead (T : Template) (fa : Option Nat) : State → State :=
  ispCall fun s => (issue T fa none s).bind fun res s => .done (.byte (extractOutput T res)) s

/-- CHIP_ERASE, WRITE*, LOADPAGE_* and WRITEPAGE: the response is ignored (R211, R215 to R220, D38). Sent by itself a
WRITE, WRITE_LO or WRITE_HI word goes out with no pre-read, where R215 to R217 (and R258, R259) say that the block sends
it only when the pre-read differs from `d` (R281). An addressed word of P1 goes out with no LOAD_EXT_ADDR before it,
whatever `ext_last` holds, where the block sends one when the window changes (R101, R264). And what is sent by itself is
followed by no poll, no Delay and no handshake, so the next request may be another word at once. The LOAD_EXT_ADDR, the
pre-read and the order of R79, R284, R293, R374 and R375 are those of the host calls only (DESIGN CHOICE, unsafe; log
6). -/
def ispUnread (T : Template) (fa : Option Nat) (d : Option Byte) : State → State :=
  ispCall fun s => (issue T fa d s).bind fun _ s => .done .ok s

/-- LOAD_EXT_ADDR (R221): then `ext_last <- fa >> 16`, the window of the field address. Sent by itself it goes out whether
or not the window changes, where the block sends it only when it does (R101, R264; DESIGN CHOICE, unsafe; log 6). -/
def ispLoadExtAddr (T : Template) (fa : Nat) : State → State :=
  ispCall fun s => (issue T (some fa) none s).bind fun _ s =>
    .done .ok { s with extLast := some (window s.cfg.params fa) }

end Sys2Proof.Machine
end

