-- ==== Sys2Proof/Machine/IspP0.lean ====
section
/-! DEFINITION. The meanings of the ISP instructions of profile P0 (43_isp_codec.md R230 to R248). -/

namespace Sys2Proof.Machine

/-- P0.PGM_ENABLE (R230, class rule R210). -/
def execP0PgmEnable (s : State) : Host.Outcome State Fault Refusal :=
  .next (ispEnable tplP0PgmEnable s)

/-- P0.CHIP_ERASE (R231, class rule R211). -/
def execP0ChipErase (s : State) : Host.Outcome State Fault Refusal :=
  .next (ispUnread tplP0ChipErase none none s)

/-- P0.flash.READ_LO (R232, class rule R213). -/
def execP0FlashReadLo (fa : Nat) (s : State) : Host.Outcome State Fault Refusal :=
  .next (ispRead tplP0FlashReadLo (some fa) s)

/-- P0.flash.READ_HI (R233, class rule R214). -/
def execP0FlashReadHi (fa : Nat) (s : State) : Host.Outcome State Fault Refusal :=
  .next (ispRead tplP0FlashReadHi (some fa) s)

/-- P0.flash.LOADPAGE_LO (R234, class rule R218). -/
def execP0FlashLoadpageLo (fa : Nat) (d : Byte) (s : State) : Host.Outcome State Fault Refusal :=
  .next (ispUnread tplP0FlashLoadpageLo (some fa) (some d) s)

/-- P0.flash.LOADPAGE_HI (R235, class rule R219). -/
def execP0FlashLoadpageHi (fa : Nat) (d : Byte) (s : State) : Host.Outcome State Fault Refusal :=
  .next (ispUnread tplP0FlashLoadpageHi (some fa) (some d) s)

/-- P0.flash.WRITEPAGE (R236, class rule R220). -/
def execP0FlashWritepage (fa : Nat) (s : State) : Host.Outcome State Fault Refusal :=
  .next (ispUnread tplP0FlashWritepage (some fa) none s)

/-- P0.eeprom.READ (R237, class rule R212). -/
def execP0EepromRead (fa : Nat) (s : State) : Host.Outcome State Fault Refusal :=
  .next (ispRead tplP0EepromRead (some fa) s)

/-- P0.eeprom.WRITE (R238, class rule R215). -/
def execP0EepromWrite (fa : Nat) (d : Byte) (s : State) : Host.Outcome State Fault Refusal :=
  .next (ispUnread tplP0EepromWrite (some fa) (some d) s)

/-- P0.signature.READ (R239, class rule R222). -/
def execP0SignatureRead (fa : Nat) (s : State) : Host.Outcome State Fault Refusal :=
  .next (ispRead tplP0SignatureRead (some fa) s)

/-- P0.lfuse.READ (R240, class rule R212). -/
def execP0LfuseRead (s : State) : Host.Outcome State Fault Refusal :=
  .next (ispRead tplP0LfuseRead none s)

/-- P0.lfuse.WRITE (R241, class rule R215). -/
def execP0LfuseWrite (d : Byte) (s : State) : Host.Outcome State Fault Refusal :=
  .next (ispUnread tplP0LfuseWrite none (some d) s)

/-- P0.hfuse.READ (R242, class rule R212). -/
def execP0HfuseRead (s : State) : Host.Outcome State Fault Refusal :=
  .next (ispRead tplP0HfuseRead none s)

/-- P0.hfuse.WRITE (R243, class rule R215). -/
def execP0HfuseWrite (d : Byte) (s : State) : Host.Outcome State Fault Refusal :=
  .next (ispUnread tplP0HfuseWrite none (some d) s)

/-- P0.efuse.READ (R244, class rule R212). -/
def execP0EfuseRead (s : State) : Host.Outcome State Fault Refusal :=
  .next (ispRead tplP0EfuseRead none s)

/-- P0.efuse.WRITE (R245, class rule R215). -/
def execP0EfuseWrite (d : Byte) (s : State) : Host.Outcome State Fault Refusal :=
  .next (ispUnread tplP0EfuseWrite none (some d) s)

/-- P0.lock.READ (R246, class rule R212). -/
def execP0LockRead (s : State) : Host.Outcome State Fault Refusal :=
  .next (ispRead tplP0LockRead none s)

/-- P0.lock.WRITE (R247, class rule R215). -/
def execP0LockWrite (d : Byte) (s : State) : Host.Outcome State Fault Refusal :=
  .next (ispUnread tplP0LockWrite none (some d) s)

/-- P0.calibration.READ (R248, class rule R212). -/
def execP0CalibrationRead (s : State) : Host.Outcome State Fault Refusal :=
  .next (ispRead tplP0CalibrationRead none s)

end Sys2Proof.Machine
end

