-- ==== Sys2Proof/Machine/IspP1.lean ====
section
/-! DEFINITION. The meanings of the ISP instructions of profile P1 (43_isp_codec.md R249 to R254). -/

namespace Sys2Proof.Machine

/-- P1.flash.LOAD_EXT_ADDR (R249, class rule R221). -/
def execP1FlashLoadExtAddr (fa : Nat) (s : State) : Host.Outcome State Fault Refusal :=
  .next (ispLoadExtAddr tplP1FlashLoadExtAddr fa s)

/-- P1.flash.READ_LO (R250, class rule R213). -/
def execP1FlashReadLo (fa : Nat) (s : State) : Host.Outcome State Fault Refusal :=
  .next (ispRead tplP1FlashReadLo (some fa) s)

/-- P1.flash.READ_HI (R251, class rule R214). -/
def execP1FlashReadHi (fa : Nat) (s : State) : Host.Outcome State Fault Refusal :=
  .next (ispRead tplP1FlashReadHi (some fa) s)

/-- P1.flash.LOADPAGE_LO (R252, class rule R218). -/
def execP1FlashLoadpageLo (fa : Nat) (d : Byte) (s : State) : Host.Outcome State Fault Refusal :=
  .next (ispUnread tplP1FlashLoadpageLo (some fa) (some d) s)

/-- P1.flash.LOADPAGE_HI (R253, class rule R219). -/
def execP1FlashLoadpageHi (fa : Nat) (d : Byte) (s : State) : Host.Outcome State Fault Refusal :=
  .next (ispUnread tplP1FlashLoadpageHi (some fa) (some d) s)

/-- P1.flash.WRITEPAGE (R254, class rule R220). -/
def execP1FlashWritepage (fa : Nat) (s : State) : Host.Outcome State Fault Refusal :=
  .next (ispUnread tplP1FlashWritepage (some fa) none s)

end Sys2Proof.Machine
end

