-- ==== Sys2Proof/Machine/IspP2.lean ====
section
/-! DEFINITION. The meanings of the ISP instructions of profile P2 (43_isp_codec.md R255 to R259). -/

namespace Sys2Proof.Machine

/-- P2.PGM_ENABLE (R255, class rule R210). -/
def execP2PgmEnable (s : State) : Host.Outcome State Fault Refusal :=
  .next (ispEnable tplP2PgmEnable s)

/-- P2.flash.READ_LO (R256, class rule R213). -/
def execP2FlashReadLo (fa : Nat) (s : State) : Host.Outcome State Fault Refusal :=
  .next (ispRead tplP2FlashReadLo (some fa) s)

/-- P2.flash.READ_HI (R257, class rule R214). -/
def execP2FlashReadHi (fa : Nat) (s : State) : Host.Outcome State Fault Refusal :=
  .next (ispRead tplP2FlashReadHi (some fa) s)

/-- P2.flash.WRITE_LO (R258, class rule R216). -/
def execP2FlashWriteLo (fa : Nat) (d : Byte) (s : State) : Host.Outcome State Fault Refusal :=
  .next (ispUnread tplP2FlashWriteLo (some fa) (some d) s)

/-- P2.flash.WRITE_HI (R259, class rule R217). -/
def execP2FlashWriteHi (fa : Nat) (d : Byte) (s : State) : Host.Outcome State Fault Refusal :=
  .next (ispUnread tplP2FlashWriteHi (some fa) (some d) s)

end Sys2Proof.Machine
end

