-- ==== Sys2Proof/Machine/Dispatch.lean ====
section
/-! DEFINITION. One arm per ISP instruction. -/

namespace Sys2Proof.Machine

def exec (i : Instr) (s : State) : Host.Outcome State Fault Refusal :=
  match i with
  | .p0PgmEnable => Sys2Proof.Machine.execP0PgmEnable s
  | .p0ChipErase => Sys2Proof.Machine.execP0ChipErase s
  | .p0FlashReadLo fa => Sys2Proof.Machine.execP0FlashReadLo fa s
  | .p0FlashReadHi fa => Sys2Proof.Machine.execP0FlashReadHi fa s
  | .p0FlashLoadpageLo fa d => Sys2Proof.Machine.execP0FlashLoadpageLo fa d s
  | .p0FlashLoadpageHi fa d => Sys2Proof.Machine.execP0FlashLoadpageHi fa d s
  | .p0FlashWritepage fa => Sys2Proof.Machine.execP0FlashWritepage fa s
  | .p0EepromRead fa => Sys2Proof.Machine.execP0EepromRead fa s
  | .p0EepromWrite fa d => Sys2Proof.Machine.execP0EepromWrite fa d s
  | .p0SignatureRead fa => Sys2Proof.Machine.execP0SignatureRead fa s
  | .p0LfuseRead => Sys2Proof.Machine.execP0LfuseRead s
  | .p0LfuseWrite d => Sys2Proof.Machine.execP0LfuseWrite d s
  | .p0HfuseRead => Sys2Proof.Machine.execP0HfuseRead s
  | .p0HfuseWrite d => Sys2Proof.Machine.execP0HfuseWrite d s
  | .p0EfuseRead => Sys2Proof.Machine.execP0EfuseRead s
  | .p0EfuseWrite d => Sys2Proof.Machine.execP0EfuseWrite d s
  | .p0LockRead => Sys2Proof.Machine.execP0LockRead s
  | .p0LockWrite d => Sys2Proof.Machine.execP0LockWrite d s
  | .p0CalibrationRead => Sys2Proof.Machine.execP0CalibrationRead s
  | .p1FlashLoadExtAddr fa => Sys2Proof.Machine.execP1FlashLoadExtAddr fa s
  | .p1FlashReadLo fa => Sys2Proof.Machine.execP1FlashReadLo fa s
  | .p1FlashReadHi fa => Sys2Proof.Machine.execP1FlashReadHi fa s
  | .p1FlashLoadpageLo fa d => Sys2Proof.Machine.execP1FlashLoadpageLo fa d s
  | .p1FlashLoadpageHi fa d => Sys2Proof.Machine.execP1FlashLoadpageHi fa d s
  | .p1FlashWritepage fa => Sys2Proof.Machine.execP1FlashWritepage fa s
  | .p2PgmEnable => Sys2Proof.Machine.execP2PgmEnable s
  | .p2FlashReadLo fa => Sys2Proof.Machine.execP2FlashReadLo fa s
  | .p2FlashReadHi fa => Sys2Proof.Machine.execP2FlashReadHi fa s
  | .p2FlashWriteLo fa d => Sys2Proof.Machine.execP2FlashWriteLo fa d s
  | .p2FlashWriteHi fa d => Sys2Proof.Machine.execP2FlashWriteHi fa d s

end Sys2Proof.Machine
end

