-- ==== Sys2Proof/Machine/Tpi.lean ====
section
/-! DEFINITION. The TPI single-wire framer (42_tpi_engine.md). It keeps no state between calls. -/

namespace Sys2Proof.Machine

/-- The 12 bits of a frame in wire order (R99). -/
def tpiFrame (b : Byte) : List Bool :=
  [false, b.getLsbD 0, b.getLsbD 1, b.getLsbD 2, b.getLsbD 3, b.getLsbD 4, b.getLsbD 5, b.getLsbD 6, b.getLsbD 7,
    tpiParity b, true, true]

/-- `TpiTxBit(v)` (R171). -/
def tpiTxBit (v : Bool) (s : State) : Run Unit :=
  (setPin .sdo v s).bind fun _ s => pulse .sck s

/-- The listed bit times, one after another. -/
def tpiTxBits : List Bool → State → Run Unit
  | [], s => .done () s
  | v :: rest, s => (tpiTxBit v s).bind fun _ s => tpiTxBits rest s

/-- `tx_byte(b)` (R172). -/
def txByte (b : Byte) (s : State) : Run Unit := tpiTxBits (tpiFrame b) s

/-- `TpiRxBit()`: sample, then pulse (R173). -/
def tpiRxBit (s : State) : Run Bool :=
  (getPin .sdi s).bind fun v s => (pulse .sck s).bind fun _ s => .done v s

/-- Up to `k` samples for a 0, the start bit: whether one was found (R174). -/
def awaitStart : Nat → State → Run Bool
  | 0, s => .done false s
  | k + 1, s => (tpiRxBit s).bind fun v s => if v then awaitStart k s else .done true s

/-- `d[n] <- TpiRxBit()` for the listed n (R174, R64). -/
def tpiRxData : List Nat → Byte → State → Run Byte
  | [], d, s => .done d s
  | n :: rest, d, s =>
    (tpiRxBit s).bind fun v s => tpiRxData rest (d ||| ((BitVec.ofBool v).setWidth 8 <<< n)) s

/-- `raise FrameError(k)` inside the framer (R176). -/
def frameError {α : Type} (k : FrameError) (s : State) : Run α := .raised (.frame k) s

/-- `rx_byte()` (R174): a parity failure is raised before the stop bits are clocked, a stop failure after both. -/
def rxByte (s : State) : Run Byte :=
  (setPin .sdo true s).bind fun _ s =>
  (awaitStart s.cfg.params.startBitWindow s).bind fun found s =>
  if !found then frameError .noStartBit s else
  (tpiRxData [0, 1, 2, 3, 4, 5, 6, 7] 0#8 s).bind fun d s =>
  (tpiRxBit s).bind fun p s =>
  if p != tpiParity d then frameError (.parityMismatch d p) s else
  (tpiRxBit s).bind fun s1 s =>
  (tpiRxBit s).bind fun s2 s =>
  if !s1 || !s2 then frameError (.framingError s1 s2) s else
  .done d s

/-- `tx_byte` of each listed byte (R177). -/
def txBytes : List Byte → State → Run Unit
  | [], s => .done () s
  | b :: rest, s => (txByte b s).bind fun _ s => txBytes rest s

/-- `rx_byte` n times (R177). -/
def rxBytes : Nat → State → Run (List Byte)
  | 0, s => .done [] s
  | n + 1, s => (rxByte s).bind fun b s => (rxBytes n s).bind fun bs s => .done (b :: bs) s

/-- `cmd_tpi(tx, n)` (R177). -/
def cmdTpi (tx : List Byte) (n : Nat) (s : State) : Run (List Byte) :=
  (txBytes tx s).bind fun _ s => rxBytes n s

end Sys2Proof.Machine
end

