-- ==== Sys2Proof/Machine/Programmer.lean ====
section
/-! DEFINITION. The MemoryProgrammer (44_memory_programmer.md): the host calls and the helpers they share, and the
requests of the two bit engines. A host call is one step: it is checked (R338), it runs to its end, and it returns. -/

namespace Sys2Proof.Machine

/-! ### Helpers (R262 to R264) -/

/-- Uses a region's template; an undefined one is a `ConfigError` (R24). -/
def withOp {α : Type} (rn : RegionName) (m : Region) (o : OpName) (k : Template → State → Run α) (s : State) : Run α :=
  match regionOp m o with
  | some T => k T s
  | none => .raised (.undefinedOpcode (.region rn o)) s

/-- `LeaIfNeeded(m, fa)` (R264). -/
def leaIfNeeded (m : Region) (fa : Nat) (s : State) : Run Unit :=
  match m.ops.loadExtAddr with
  | none => .done () s
  | some T =>
    if s.extLast = some (window s.cfg.params fa) then .done () s
    else (issue T (some fa) none s).bind fun _ s => .done () { s with extLast := some (window s.cfg.params fa) }

/-- `Send(m, T, a, d)` (R263). -/
def send (m : Region) (T : Template) (a : Nat) (d : Option Byte) (s : State) : Run Cmd :=
  (leaIfNeeded m (fieldAddr m a) s).bind fun _ s => issue T (some (fieldAddr m a)) d s

/-- `read_byte(m, a)` (R268). -/
def readByte (rn : RegionName) (m : Region) (a : Nat) (s : State) : Run Byte :=
  withOp rn m (sel m .read a) (fun T s => (send m T a none s).bind fun res s => .done (extractOutput T res) s) s

/-! ### Program enable (R265 to R267) -/

/-- `ResyncLoop()` (R266), with as many rounds left as the bound allows. -/
def resyncLoop (T : Template) (poll : Fin 4 × Byte) : Nat → State → Run Unit
  | 0, s => .raised (.resyncExhausted s.cfg.params.resyncBound) s.handshakeFailed
  | n + 1, s =>
    (issue T none none s).bind fun res s =>
    if echoOk poll res then .done () s.handshakeOk
    else (pulse .sck s).bind fun _ s =>
      if s.countResync.resyncTries = s.cfg.params.resyncBound then
        .raised (.resyncExhausted s.cfg.params.resyncBound) s.countResync.handshakeFailed
      else resyncLoop T poll n s.countResync

/-- `EnableBody()` (R265). -/
def enableBody (T : Template) (s : State) : Run Unit :=
  match T.poll with
  | none => (issue T none none s).bind fun _ s => .done () s.handshakeOk
  | some poll => resyncLoop T poll s.cfg.params.resyncBound s

/-- The handshake of `initialize` and of `chip_erase`: the preamble, `fsm <- Resyncing`, `EnableBody()` (R265, R300). -/
def handshake (s : State) : Run CallResult :=
  (runPinList s.cfg.initPreamble s.clearHandshake).bind fun _ s =>
  match s.cfg.part.pgmEnable with
  | none => .raised (.undefinedOpcode .pgmEnable) s
  | some T => (enableBody T { s with fsm := .resyncing }).bind fun _ s => .done .ok s

/-! ### Reading (R269) -/

/-- The loop of `read_memory`: bytes q, q+1, … of `total`, `left` of them (R269). -/
def readLoop (rn : RegionName) (m : Region) (start total : Nat) : Nat → Nat → State → Run (List Byte)
  | 0, _, s => .done [] s
  | left + 1, q, s =>
    (readByte rn m (start + q) s).bind fun b s =>
    (readLoop rn m start total left (q + 1) (s.emit (.progress (q + 1) total))).bind fun bs s =>
    .done (b :: bs) s

/-! ### Single-byte write with poll (R280 to R285) -/

/-- The read-back loop of `Poll` (R282), with as many read-backs left as the bound allows. -/
def pollLoop (rn : RegionName) (m : Region) (a : Nat) (d : Byte) : Nat → State → Run Unit
  | 0, s => .raised (.pollTimeout rn a d d) s
  | n + 1, s =>
    (delay m.minWriteDelayUs s).bind fun _ s =>
    (readByte rn m a s).bind fun v s =>
    if v = d then .done () s
    else if s.countPoll.pollTries = s.cfg.params.pollBound then .raised (.pollTimeout rn a d v) s.countPoll
    else pollLoop rn m a d n s.countPoll

/-- `Poll(m, a, d)`: a sentinel waits once and reads nothing back (R282, R283). -/
def poll (rn : RegionName) (m : Region) (a : Nat) (d : Byte) (s : State) : Run Unit :=
  if m.pollSentinels.contains d then delay m.maxWriteDelayUs s
  else pollLoop rn m a d s.cfg.params.pollBound s.clearPoll

/-- `write_byte(m, a, d)`: pre-read, write where it differs, poll (R280, R281). -/
def writeByte (rn : RegionName) (m : Region) (a : Nat) (d : Byte) (s : State) : Run Unit :=
  (readByte rn m a s).bind fun cur s =>
  if cur = d then .done () s
  else
    (withOp rn m (sel m .write a) (fun T s => send m T a (some d) s) s).bind fun _ s =>
    poll rn m a d s

/-- The loop of `write_memory` on a region that is not paged (R285). -/
def writeLoop (rn : RegionName) (m : Region) (start total : Nat) : List Byte → Nat → State → Run Unit
  | [], _, s => .done () s
  | d :: rest, q, s =>
    (writeByte rn m (start + q) d s).bind fun _ s =>
    writeLoop rn m start total rest (q + 1) (s.emit (.progress (q + 1) total))

/-! ### Paged write (R290, R291) -/

/-- `FlushPage(m, base)` (R291). -/
def flushPage (rn : RegionName) (m : Region) (base : Nat) (s : State) : Run Unit :=
  (withOp rn m .writepage (fun T s => send m T base none s) s).bind fun _ s =>
  (match Memory.highestNotErased s.pageVals with
    | none => delay m.maxWriteDelayUs s
    | some c => poll rn m c.1 c.2 s).bind fun _ s =>
  .done () { s with pageVals := [] }

/-- The loop of `write_memory` on a paged region: load the byte, flush at a page boundary or the last byte (R290). -/
def pagedLoop (rn : RegionName) (m : Region) (start total : Nat) : List Byte → Nat → State → Run Unit
  | [], _, s => .done () s
  | d :: rest, q, s =>
    (withOp rn m (sel m .loadpage (start + q)) (fun T s => send m T (start + q) (some d) s) { s with cursor := q }).bind
      fun _ s =>
    let s := { s with pageVals := Memory.store s.pageVals (start + q) d }
    if (start + q + 1) % m.pageSize = 0 ∨ rest = [] then
      (flushPage rn m (pageBase m (start + q)) s).bind fun _ s =>
      pagedLoop rn m start total rest (q + 1) (s.emit (.progress (q + 1) total))
    else pagedLoop rn m start total rest (q + 1) s

/-! ### The host calls -/

/-- `initialize()` (R265). -/
def hostInitialise (s : State) : Host.Outcome State Fault Refusal :=
  if s.fsm = .disconnected then
    .next (checked (checkInitialise s.cfg) s fun s => handshake { s with extLast := none })
  else .refused (.illegalState s.fsm)

/-- `read_memory(m, start, n)` (R269). -/
def hostReadMemory (rn : RegionName) (start n : Nat) (s : State) : Host.Outcome State Fault Refusal :=
  if s.fsm = .enabled then
    match findRegion s rn with
    | none => .refused (.noSuchRegion rn)
    | some m =>
      if start + n ≤ m.size then
        .next (checked (undefinedRegionOp? rn m (readNeeds m)) s fun s =>
          (readLoop rn m start n n 0 { s with fsm := .reading, extLast := none }).bind fun bs s =>
          .done (.bytes bs) { s with fsm := .enabled })
      else .refused (.outOfRange rn start n)
  else .refused (.illegalState s.fsm)

/-- The body of `write_memory` after its checks, on a paged region or another (R285, R290). -/
def writeBody (rn : RegionName) (m : Region) (start : Nat) (data : List Byte) (s : State) : Run CallResult :=
  (if paged m then
      pagedLoop rn m start data.length data 0 { s with fsm := .writing, extLast := none, pageVals := [] }
    else writeLoop rn m start data.length data 0 { s with fsm := .writing, extLast := none }).bind fun _ s =>
  .done .ok { s with fsm := .enabled }

/-- `write_memory(m, start, data)` (R285, R290). -/
def hostWriteMemory (rn : RegionName) (start : Nat) (data : List Byte) (s : State) :
    Host.Outcome State Fault Refusal :=
  if s.fsm = .enabled then
    match findRegion s rn with
    | none => .refused (.noSuchRegion rn)
    | some m =>
      if start + data.length ≤ m.size then
        .next (checked (undefinedRegionOp? rn m (writeNeeds m)) s (writeBody rn m start data))
      else .refused (.outOfRange rn start data.length)
  else .refused (.illegalState s.fsm)

/-- The body of `chip_erase` after its checks (R300). -/
def eraseBody (s : State) : Run CallResult :=
  match s.cfg.part.chipErase with
  | none => .raised (.undefinedOpcode .chipErase) s
  | some T =>
    (issue T none none { s with fsm := .erasing, extLast := none }).bind fun _ s =>
    (delay s.cfg.part.chipEraseDelayUs s).bind fun _ s =>
    handshake s

/-- `chip_erase()` (R300). -/
def hostChipErase (s : State) : Host.Outcome State Fault Refusal :=
  if s.fsm = .enabled then .next (checked (checkChipErase s.cfg) s eraseBody)
  else .refused (.illegalState s.fsm)

/-- The body of `disable` after its check (R305); `ext_last` is none from the start of every host call (R43, log 12). -/
def disableBody (s : State) : Run CallResult :=
  (runPinList s.cfg.disablePostamble { s with extLast := none }).bind fun _ s => .done .ok { s with fsm := .disabled }

/-- `disable()` (R305): the postamble's pins are checked, in R338's order, before the first of its operations (R135,
R330; log 10). -/
def hostDisable (s : State) : Host.Outcome State Fault Refusal :=
  if s.fsm = .enabled ∨ s.fsm = .disconnected then .next (checked (checkDisable s.cfg) s disableBody)
  else .refused (.illegalState s.fsm)

/-- A host call (R7, R260). -/
def execHostCall (c : HostCall) (s : State) : Host.Outcome State Fault Refusal :=
  match c with
  | .initialise => hostInitialise s
  | .readMemory m start n => hostReadMemory m start n s
  | .writeMemory m start data => hostWriteMemory m start data s
  | .chipErase => hostChipErase s
  | .disable => hostDisable s

/-! ### The engine calls -/

/-- An engine call after its check; no state machine restricts it (log 23). -/
def engineBody (c : EngineCall) (s : State) : Run CallResult :=
  match c with
  | .transmitByte b => (transmitByte b s).bind fun r s => .done (.byte r) s
  | .transmitCmd c => (transmitCmd c s).bind fun r s => .done (.response r) s
  | .txByte b => (txByte b s).bind fun _ s => .done .ok s
  | .rxByte => (rxByte s).bind fun r s => .done (.byte r) s
  | .cmdTpi tx n => (cmdTpi tx n s).bind fun bs s => .done (.bytes bs) s

/-- An engine call (R150, R151, R172, R174, R177): an unassigned pin it would operate is a `ConfigError` before any
exchange (R135, log 10). Its bytes are the host's: a `transmitCmd` or a `transmitByte` puts bytes on the wire that no
template need build, where the block of itself sends only words of `build`, all through `Issue` (R103 (a), R202). It may
come between two ISP commands, so that a lone byte or a TPI frame stands where R72 has only `Pulse(Sck)` or `Delay`. A
`transmitCmd` of an addressed word is preceded by no LOAD_EXT_ADDR (R101) and of a WRITE by no pre-read (R281), and of a
WRITE, a WRITEPAGE or CHIP_ERASE it is followed by no poll, no Delay and no handshake of its own. What R72, R79, R101, R103,
R202, R281, R374 and R375 ask is kept by the host calls only (DESIGN CHOICE, unsafe; log 23). -/
def execEngineCall (c : EngineCall) (s : State) : Host.Outcome State Fault Refusal :=
  .next (checked (checkEngine s.cfg c) s (engineBody c))

end Sys2Proof.Machine
end

