-- ==== Sys2Proof/Machine/Requests.lean ====
section
/-! DEFINITION. One request of the host: a host call, an engine call, or one ISP word, read in the selected profile. -/

namespace Sys2Proof.Machine

/-- The bytes of an ISP word run as the instruction the profile reads from them; others have no step (R103, log 6). One
such word after another may run with nothing between them: the LOAD_EXT_ADDR that R101 puts before an addressed word, the
pre-read that R281 puts before a WRITE, and what R79, R284, R374 and R375 put after a WRITE, a WRITEPAGE or CHIP_ERASE, are
the host calls' (DESIGN CHOICE, unsafe; log 6). -/
def runIsp (bytes : List Byte) (s : State) : Host.Outcome State Fault Refusal :=
  match decode s.profile bytes with
  | .ok i => exec i s
  | .error e => .refused (.undecodable e)

/-- One request (log 5). -/
def runRequest (r : Request) (s : State) : Host.Outcome State Fault Refusal :=
  match r with
  | .host c => execHostCall c s
  | .engine c => execEngineCall c s
  | .isp bytes => runIsp bytes s

/-- The state with its next request taken off. -/
def State.withPending (s : State) (rest : List Request) : State := { s with pending := rest }

/-- The state with one ISP word as its next request, and the profile that word is read in selected (log 7). -/
def placeWord (s : State) (nbits w : Nat) : State :=
  { s with pending := .isp (tableBytes nbits w) :: s.pending, profile := tableProfile nbits w }

end Sys2Proof.Machine
end

