-- ==== Sys2Proof/Machine/Step.lean ====
section
/-! DEFINITION. One step: the next request of the host, run to its end (R341); with no request, nothing happens (log 5).
A configuration that is not well-formed has no session (R348, log 16). -/

namespace Sys2Proof.Machine

def step (s : State) : Host.Outcome State Fault Refusal :=
  match s.pending with
  | [] => .next s
  | r :: rest => if s.cfg.wf then runRequest r (s.withPending rest) else .refused .illFormedConfiguration

/-- `s` with the ISP word `w` where step takes its next request. -/
def State.withFetchWord (s : State) (nbits w : Nat) : State := placeWord s nbits w

end Sys2Proof.Machine
end

