-- ==== Sys2Proof/Machine/Target.lean ====
section
/-! DEFINITION. The environment premises of the spec, as checkers of a trace: the wire loopback (92_eei_decisions.md D33)
and the reference targets T0 and T0s (20_memory.md R71). They are test fixtures and no part of the block: State does not
hold them, and a claim that wants one names it as a premise (R70; log 24). -/

namespace Sys2Proof.Machine

/-- Every `Get(Sdi)` of the events returns the level `Sdo` holds at that moment, `l` before the first (D33). -/
def loopbackAnswers : Bool → List Event → Bool
  | _, [] => true
  | l, .get .sdi v :: rest => v == l && loopbackAnswers l rest
  | _, .set .sdo v :: rest => loopbackAnswers v rest
  | l, _ :: rest => loopbackAnswers l rest

/-- A reference target: T0, or T0s where `gated` (R71). `bits` holds the last 32 received bits, the latest in bit 0, and
`count` of them are of the current frame. `taken` is the bit of `Sdo` taken at a rising edge of `Sck` whose falling edge
has not come: `Sck` is active exactly while it is there. `cmdBit` is the bit of its command that the block exchanges
next. A byte of `mem` that is not listed reads 0xFF. -/
structure Target where
  profile : Profile
  gated : Bool
  enabled : Bool
  mem : List (RegionName × Memory)
  pageBuf : Memory
  extAddr : Nat
  count : Nat
  bits : Word
  taken : Option Bool
  cmdBit : Nat
  sdo : Bool
deriving DecidableEq, Repr

/-- What an ISP instruction asks of a target, with byte addresses (R66, R210 to R222). -/
inductive TargetOp where
  | enable
  | erase
  | read (m : RegionName) (addr : Nat)
  | write (m : RegionName) (addr : Nat) (d : Byte)
  | load (addr : Nat) (d : Byte)
  | commit (m : RegionName) (base : Nat)
  | window (w : Nat)
deriving DecidableEq, Repr

/-- What each instruction asks of a target; `ext` is the address window of 2^16 field addresses that the last
LOAD_EXT_ADDR selected (R221). The lock bits 7..6, which P0.lock.WRITE does not map and which I6 lets read back as any
value, are stored as the constant ones of its word (R247; the fixture's choice, log 24). -/
def targetOp (ext : Nat) : Instr → TargetOp
  | .p0PgmEnable => .enable
  | .p0ChipErase => .erase
  | .p0FlashReadLo fa => .read .flash (2 * fa)
  | .p0FlashReadHi fa => .read .flash (2 * fa + 1)
  | .p0FlashLoadpageLo fa d => .load (2 * fa) d
  | .p0FlashLoadpageHi fa d => .load (2 * fa + 1) d
  | .p0FlashWritepage fa => .commit .flash (2 * fa)
  | .p0EepromRead fa => .read .eeprom fa
  | .p0EepromWrite fa d => .write .eeprom fa d
  | .p0SignatureRead fa => .read .signature fa
  | .p0LfuseRead => .read .lfuse 0
  | .p0LfuseWrite d => .write .lfuse 0 d
  | .p0HfuseRead => .read .hfuse 0
  | .p0HfuseWrite d => .write .hfuse 0 d
  | .p0EfuseRead => .read .efuse 0
  | .p0EfuseWrite d => .write .efuse 0 d
  | .p0LockRead => .read .lock 0
  | .p0LockWrite d => .write .lock 0 (d ||| 0xC0#8)
  | .p0CalibrationRead => .read .calibration 0
  | .p1FlashLoadExtAddr fa => .window (fa / 2 ^ 16)
  | .p1FlashReadLo fa => .read .flash (2 * (ext * 2 ^ 16 + fa))
  | .p1FlashReadHi fa => .read .flash (2 * (ext * 2 ^ 16 + fa) + 1)
  | .p1FlashLoadpageLo fa d => .load (2 * fa) d
  | .p1FlashLoadpageHi fa d => .load (2 * fa + 1) d
  | .p1FlashWritepage fa => .commit .flash (2 * (ext * 2 ^ 16 + fa))
  | .p2PgmEnable => .enable
  | .p2FlashReadLo fa => .read .flash (2 * fa)
  | .p2FlashReadHi fa => .read .flash (2 * fa + 1)
  | .p2FlashWriteLo fa d => .write .flash (2 * fa) d
  | .p2FlashWriteHi fa d => .write .flash (2 * fa + 1) d

/-- The cells of a region that differ from 0xFF. -/
def regionCells : List (RegionName × Memory) → RegionName → Memory
  | [], _ => []
  | e :: rest, m => if e.1 = m then e.2 else regionCells rest m

/-- `TargetMem(region, addr)` (R11, R71). -/
def Target.read (t : Target) (m : RegionName) (a : Nat) : Byte :=
  (Memory.read? (regionCells t.mem m) a).getD 0xFF#8

/-- Replaces the cells of a region. -/
def setRegionCells : List (RegionName × Memory) → RegionName → Memory → List (RegionName × Memory)
  | [], m, cells => [(m, cells)]
  | e :: rest, m, cells => if e.1 = m then (m, cells) :: rest else e :: setRegionCells rest m cells

/-- `TargetMem(region, addr) <- d`. -/
def Target.write (t : Target) (m : RegionName) (a : Nat) (d : Byte) : Target :=
  { t with mem := setRegionCells t.mem m (Memory.store (regionCells t.mem m) a d) }

/-- The page buffer's bytes written at a page base, and the buffer emptied. A position that was not loaded keeps the
byte the target held there, where I5 allows any value (R220, R290; the fixture's choice, log 24). -/
def Target.commit (t : Target) (m : RegionName) (base : Nat) : Memory → Target
  | [] => { t with pageBuf := [] }
  | c :: rest => Target.commit (t.write m (base + c.1) c.2) m base rest

/-- What a target does with a word it honours (R71). An erase fills flash and eeprom with 0xFF and clears neither the
page buffer nor the address window (I5, I17; the fixture's choice, log 24). -/
def Target.perform (t : Target) : TargetOp → Target
  | .enable => { t with enabled := true }
  | .erase => { t with mem := setRegionCells (setRegionCells t.mem .flash []) .eeprom [], enabled := false }
  | .read _ _ => t
  | .write m a d => t.write m a d
  | .load a d => { t with pageBuf := Memory.store t.pageBuf a d }
  | .commit m base => t.commit m base t.pageBuf
  | .window w => { t with extAddr := w }

/-- A target that honours commands: T0 always, T0s once it is enabled (R71). -/
def Target.honours (t : Target) : Bool := !t.gated || t.enabled

/-- In phase with the block's commands: `Sck` is idle, and the bit of a frame it receives next is the same bit of the
command that the block exchanges next. -/
def Target.inPhase (t : Target) : Bool := t.taken.isNone && t.count == t.cmdBit

/-- At the start of a frame, with `Sck` idle. -/
def Target.atFrameStart (t : Target) : Bool := t.taken.isNone && t.count == 0

/-- The received byte i of the current frame, once all of it is there. -/
def Target.received (t : Target) (i : Nat) : Byte := (t.bits >>> (t.count - 8 * (i + 1))).setWidth 8

/-- `R_3`: the memory byte of a READ-class command, else the received byte 2 (R71, 95_test_vectors.md §0). -/
def Target.answer3 (t : Target) : Byte :=
  let c2 := t.received 2
  match decodeWord t.profile (t.received 0 ++ t.received 1 ++ c2 ++ 0#8) with
  | none => c2
  | some i =>
    match targetOp t.extAddr i with
    | .read m a => t.read m a
    | _ => c2

/-- The response byte of the slot the target is in (R71): `[00, c0, c1, R_3]`, or T0s's answer before it is enabled. -/
def Target.slotByte (t : Target) : Byte :=
  if t.honours then
    match t.count / 8 with
    | 0 => 0#8
    | 1 => t.received 0
    | 2 => t.received 1
    | _ => t.answer3
  else
    match t.count / 8 with
    | 2 => if t.received 0 = 0xAC#8 then t.received 1 else 0#8
    | _ => 0#8

/-- The level the target presents (R71). A target that honours commands and is out of phase presents the bit it received
8 clocks before, in every slot: a plain T0 delays every byte by exactly 8 clocks, so its echo passes at every phase
offset. Any other presents its slot's response byte, most significant bit first. -/
def Target.level (t : Target) : Bool :=
  if t.honours && !t.inPhase then t.bits.getLsbD 7 else t.slotByte.getLsbD (7 - t.count % 8)

/-- What the target does with a whole frame, the last 32 bits it received (R71). -/
def Target.frame (t : Target) : Target :=
  if t.honours then
    match decodeWord t.profile t.bits with
    | none => t
    | some i => t.perform (targetOp t.extAddr i)
  else if t.bits.extractLsb' 16 16 = 0xAC53#16 then { t with enabled := true }
  else t

/-- One more bit is received; the 32nd of a frame ends it (R71). -/
def Target.receive (t : Target) (b : Bool) : Target :=
  let t := { t with bits := t.bits <<< 1 ||| BitVec.zeroExtend 32 (BitVec.ofBool b) }
  if t.count = 31 then { t with count := 0 }.frame else { t with count := t.count + 1 }

/-- `Sck` goes to level `v`. At a rising edge the target takes the level of `Sdo`; at the falling edge that follows it has
received that bit and presents the next one (R71; where it takes the bit is the fixture's choice, log 24). -/
def Target.clock (t : Target) (v : Bool) : Target :=
  match t.taken, v with
  | none, true => { t with taken := some t.sdo }
  | some b, false => { t with taken := none }.receive b
  | _, _ => t

/-- What an event does to the target. An edge of `Sck` counts whether a `Pulse` makes it or a `Set`; a pulse drives the
level it does not find and then the one it found (R132). A `Get` is the next bit of the block's command. -/
def Target.sees (t : Target) : Event → Target
  | .set .sdo v => { t with sdo := v }
  | .set .sck v => t.clock v
  | .pulse .sck => (t.clock t.taken.isNone).clock t.taken.isSome
  | .get .sdi _ => { t with cmdBit := (t.cmdBit + 1) % 32 }
  | _ => t

/-- The events agree with the target: every `Get(Sdi)` among them returns the level the target presents (R71). -/
def Target.agrees : Target → List Event → Bool
  | _, [] => true
  | t, e :: rest =>
    (match e with
    | .get .sdi v => v == t.level
    | _ => true) && Target.agrees (t.sees e) rest

/-- The target answers the events of a request, or of requests that each send whole commands: every `Get(Sdi)` returns
the level the target presents (R71). A request starts at the first bit of a command, since the block never sends part
of one (R72; log 24 says how a lone byte counts). -/
def Target.answers (t : Target) (evs : List Event) : Bool := Target.agrees { t with cmdBit := 0 } evs

/-- The target after the events. -/
def Target.after (t : Target) (evs : List Event) : Target := evs.foldl Target.sees t

/-- The target with `o` clocks of a frame behind it (R71, R376). -/
def Target.offset (t : Target) (o : Nat) : Target := { t with count := o }

/-- T0 with the given memory, in phase with the block (R71); it starts with address window 0 and an empty page buffer,
and has received zeros (the fixture's choice, log 24). -/
def targetT0 (p : Profile) (mem : List (RegionName × Memory)) : Target :=
  { profile := p, gated := false, enabled := true, mem := mem, pageBuf := [], extAddr := 0, count := 0, bits := 0#32,
    taken := none, cmdBit := 0, sdo := false }

/-- T0s(o): its decoder starts `o` clocks into a frame of zeros, and it is not enabled (R71; log 24). -/
def targetT0s (p : Profile) (o : Nat) (mem : List (RegionName × Memory)) : Target :=
  { (targetT0 p mem).offset o with gated := true, enabled := false }

end Sys2Proof.Machine
end

