-- ==== Sys2Proof/Safety.lean ====
section
/-! DEFINITION. The terms the claims are stated in: what the environment presents, the events an exchange leaves, the
state after it written out, and the invariant of a session at a host-call boundary (44_memory_programmer.md R312). -/

namespace Sys2Proof.Machine

/-! ### What the environment does next -/

/-- Whether the transport call `n` calls from here fails, and with which error value (R136; log 4). -/
def State.faultAt (s : State) (n : Nat) : Option Nat :=
  match s.ioFaults[n]? with
  | some f => f
  | none => Config.transportFault (s.ioDraws + n)

/-- The next `n` transport calls do not fail (R136). -/
abbrev State.NoFault (s : State) (n : Nat) : Prop := ∀ k < n, s.faultAt k = none

/-- The next `k` transport calls do not fail, and the one after them fails with the backend's value `e` (R136). -/
abbrev State.FaultAt (s : State) (k e : Nat) : Prop := s.NoFault k ∧ s.faultAt k = some e

/-- The electrical level the environment draws for the `Get` `n` samples from here (R70, R131; log 3). -/
def State.level (s : State) (n : Nat) : Bool :=
  match s.sdiIn[n]? with
  | some v => v
  | none => Config.sdiLevel (s.sdiDraws + n)

/-- The logical level that the `Get(Sdi)` `n` samples from here returns: the draw, by the polarity of the pin (R131). -/
def State.sample (s : State) (n : Nat) : Bool := s.level n ^^ (pinEntry s.cfg.pins .sdi).inverted

/-- The byte whose bits, most significant first, are the 8 samples from the `n`-th on (R63). -/
def State.byteAt (s : State) (n : Nat) : Byte :=
  [7, 6, 5, 4, 3, 2, 1, 0].foldl (fun r i => r ||| ((BitVec.ofBool (s.sample (n + (7 - i)))).setWidth 8 <<< i)) 0#8

/-- The response that the 32 samples from the `n`-th on make: what the target presents during a command (R71, R90). -/
def State.response (s : State) (n : Nat) : Cmd :=
  { b0 := s.byteAt n, b1 := s.byteAt (n + 8), b2 := s.byteAt (n + 16), b3 := s.byteAt (n + 24) }

/-- The three pins of the block's own rules are assigned, so an exchange is not refused to an unassigned pin (R28, R135). -/
abbrev State.WiresAssigned (s : State) : Prop := ∀ p ∈ [Pin.sck, .sdo, .sdi], (pinEntry s.cfg.pins p).line ≠ none

/-- The coming samples are these logical levels, in order. -/
abbrev State.Samples (s : State) (levels : List Bool) : Prop := ∀ k < levels.length, s.sample k = levels.getD k false

/-! ### Events -/

/-- The events of `transmit_byte(b)` that receives `r`: Get, Set, Pulse for each bit (R150, R153). -/
def byteEvents (b r : Byte) : List Event :=
  [7, 6, 5, 4, 3, 2, 1, 0].flatMap fun i =>
    [.get .sdi (r.getLsbD i), .set .sdo (b.getLsbD i), .pulse .sck]

/-- The events of `transmit_cmd(c)` that receives `res` (R151). -/
def cmdEvents (c res : Cmd) : List Event :=
  byteEvents c.b0 res.b0 ++ byteEvents c.b1 res.b1 ++ byteEvents c.b2 res.b2 ++ byteEvents c.b3 res.b3

/-- The events of transmitted TPI bits (R171). -/
def tpiTxEvents (bits : List Bool) : List Event := bits.flatMap fun v => [.set .sdo v, .pulse .sck]

/-- The events of received TPI bits (R173). -/
def tpiRxEvents (bits : List Bool) : List Event := bits.flatMap fun v => [.get .sdi v, .pulse .sck]

/-- The data bits of a TPI frame in wire order, least significant first (R64). -/
def lsbFirst (b : Byte) : List Bool := [0, 1, 2, 3, 4, 5, 6, 7].map b.getLsbD

/-- `popcount(b)`, the number of 1 bits (R10). -/
def popcount (b : Byte) : Nat := (lsbFirst b).count true

/-- `{l, b[7:1]}`: the byte delayed by one bit position (R154). -/
def delayedByOne (l : Bool) (b : Byte) : Byte := ((BitVec.ofBool l).setWidth 8 <<< 7) ||| (b >>> 1)

/-- The levels of `Sdo` at the pulses of `Sck`, `l` being the level before the events (R179). -/
def sdoAtPulses : Bool → List Event → List Bool
  | _, [] => []
  | _, .set .sdo v :: rest => sdoAtPulses v rest
  | l, .pulse .sck :: rest => l :: sdoAtPulses l rest
  | l, _ :: rest => sdoAtPulses l rest

/-- The events of a preamble or a postamble (R372, R383). -/
def pinOpEvents (ops : List PinOp) : List Event :=
  ops.map fun
    | .set p v => .set p v
    | .pulse p => .pulse p
    | .delay us => .delay us

/-- How many clock pulses the events hold (R153, R178, R382). -/
def pulses (evs : List Event) : Nat := evs.count (.pulse .sck)

/-- The events a step or a part of a call added to the trace. -/
def newEvents (s t : State) : List Event := t.trace.drop s.trace.length

/-- The events without the progress events, of which a model may drop any (R310) and on which no claim may depend (D28). -/
def withoutProgress (evs : List Event) : List Event :=
  evs.filter fun
    | .progress _ _ => false
    | _ => true

/-- Progress events aside, `t` has the events of `s` and then those that `u` has more than `s`. -/
abbrev AddsEventsOf (s u t : State) : Prop :=
  s.trace <+: t.trace ∧ withoutProgress (newEvents s t) = newEvents s u

/-- The pin an event operates, if it operates one. -/
def eventPin? : Event → Option Pin
  | .set p _ => some p
  | .get p _ => some p
  | .pulse p => some p
  | .delay _ => none
  | .progress _ _ => none

/-! ### States after an exchange, written out -/

/-- `calls` transport calls were made, `samples` levels were drawn, `Sdo` was left at `sdo`, and the events were traced. -/
def State.exchanged (s : State) (calls samples : Nat) (sdo : Bool) (evs : List Event) : State :=
  { s with
    lvlSdo := sdo
    trace := s.trace ++ evs
    sdiIn := s.sdiIn.drop samples
    sdiDraws := s.sdiDraws + samples
    ioFaults := s.ioFaults.drop calls
    ioDraws := s.ioDraws + calls }

/-- The state after `transmit_byte(b)` that receives `r`. -/
def State.afterByte (s : State) (b r : Byte) : State := s.exchanged 24 8 (b.getLsbD 0) (byteEvents b r)

/-- The state after `transmit_cmd(c)` that receives `res`. -/
def State.afterCmd (s : State) (c res : Cmd) : State := s.exchanged 96 32 (c.b3.getLsbD 0) (cmdEvents c res)

/-- The levels the operations leave on the pins (R130, R372). -/
def levelsAfter : List PinOp → State → State
  | [], s => s
  | .set p v :: ops, s => levelsAfter ops (s.setLvl p v)
  | _ :: ops, s => levelsAfter ops s

/-- The state after a preamble or a postamble none of whose calls fails. -/
def State.afterPinOps (s : State) (ops : List PinOp) : State :=
  (levelsAfter ops s).exchanged ops.length 0 (levelsAfter ops s).lvlSdo (pinOpEvents ops)

/-! ### Regions and templates of a claim -/

/-- The `n` bits of a field address from bit `lo` on, at the word positions from `pos` on (43_isp_codec.md Part 3). -/
def addrBits (fa lo n pos : Nat) : Word := BitVec.ofNat 32 (fa / 2 ^ lo % 2 ^ n) <<< pos

/-- An ISP word sent by itself: the exchange, then its result (R104). -/
def afterIsp (s : State) (w : Word) (r : Cmd → CallResult) : State :=
  returnResult (r (s.response 0)) (s.afterCmd (Cmd.ofWord w) (s.response 0))

/-- The template of a region's operation; one without any mapped bit where it is undefined. -/
def opOr (m : Region) (o : OpName) : Template := (regionOp m o).getD ⟨0#32, [], [], none, none⟩

/-- The command that reads byte address `a` of a region (R212 to R214). -/
def readCmd (m : Region) (a : Nat) : Cmd := build (opOr m (sel m .read a)) (some (fieldAddr m a)) none

/-- What the block reads from a response to it (R201). -/
def readOut (m : Region) (a : Nat) (res : Cmd) : Byte := extractOutput (opOr m (sel m .read a)) res

/-- The command that writes `d` to byte address `a` (R215 to R217). -/
def writeCmd (m : Region) (a : Nat) (d : Byte) : Cmd :=
  build (opOr m (sel m .write a)) (some (fieldAddr m a)) (some d)

/-- The command that loads `d` for byte address `a` into the page buffer (R218, R219). -/
def loadCmd (m : Region) (a : Nat) (d : Byte) : Cmd :=
  build (opOr m (sel m .loadpage a)) (some (fieldAddr m a)) (some d)

/-- The command that commits the page at a byte base address (R220). -/
def pageCmd (m : Region) (base : Nat) : Cmd := build (opOr m .writepage) (some (fieldAddr m base)) none

/-- The events of failed PGM_ENABLE attempts: the full command, then one pulse (R266). -/
def failedAttempts (s : State) (c : Cmd) : Nat → List Event
  | 0 => []
  | k + 1 => failedAttempts s c k ++ cmdEvents c (s.response (32 * k)) ++ [.pulse .sck]

/-- The events of the first `k` read-backs of a poll that start at sample `g` (R282). -/
def pollEvents (s : State) (m : Region) (a g : Nat) : Nat → List Event
  | 0 => []
  | k + 1 => pollEvents s m a g k ++ [.delay m.minWriteDelayUs] ++ cmdEvents (readCmd m a) (s.response (g + 32 * k))

/-- No LOAD_EXT_ADDR comes before an addressed command for byte address `a` (R264). -/
abbrev NoLeaFor (m : Region) (a : Nat) (s : State) : Prop :=
  m.ops.loadExtAddr = none ∨ s.extLast = some (window s.cfg.params (fieldAddr m a))

/-! ### What a host call puts on the wires, item by item -/

/-- An addressed command for byte address `a`; a READ of `a` whose output is `v`, or is not; a delay. -/
inductive WireItem where
  | addressed (a : Nat) (c : Cmd)
  | readBack (a : Nat) (v : Byte) (equal : Bool)
  | wait (us : Nat)
deriving DecidableEq, Repr

/-- The LOAD_EXT_ADDR word that comes before an addressed command for byte address `a`: where the region defines it and
the window of the field address is not that of the last one sent (R264). -/
def State.leaWord (s : State) (m : Region) (a : Nat) : Option Cmd :=
  match m.ops.loadExtAddr with
  | none => none
  | some T =>
    if s.extLast = some (fieldAddr m a / 2 ^ s.cfg.params.addrFieldBits) then none
    else some (build T (some (fieldAddr m a)) none)

/-- The state an addressed command for byte address `a` is sent in: after its LOAD_EXT_ADDR, if one comes before it. -/
def State.afterLea (s : State) (m : Region) (a : Nat) : State :=
  match s.leaWord m a with
  | none => s
  | some c =>
    { s.afterCmd c (s.response 0) with extLast := some (fieldAddr m a / 2 ^ s.cfg.params.addrFieldBits) }

/-- The response to an addressed command for byte address `a`. -/
def State.answer (s : State) (m : Region) (a : Nat) : Cmd := (s.afterLea m a).response 0

/-- The state after an item none of whose transport calls fails. -/
def State.afterItem (m : Region) (s : State) : WireItem → State
  | .addressed a c => (s.afterLea m a).afterCmd c (s.answer m a)
  | .readBack a _ _ => (s.afterLea m a).afterCmd (readCmd m a) (s.answer m a)
  | .wait us => s.exchanged 1 0 s.lvlSdo [.delay us]

/-- The state after the items, in order. -/
def State.afterItems (s : State) (m : Region) (items : List WireItem) : State := items.foldl (State.afterItem m) s

/-- How many transport calls the items make. -/
def State.callsOf (s : State) (m : Region) (items : List WireItem) : Nat := (s.afterItems m items).ioDraws - s.ioDraws

/-- Every read-back of the items is answered as it says: with its byte, or with another. -/
def State.answered (m : Region) (s : State) : List WireItem → Bool
  | [] => true
  | .addressed a c :: rest => State.answered m (s.afterItem m (.addressed a c)) rest
  | .readBack a v equal :: rest =>
    (readOut m a (s.answer m a) == v) == equal && State.answered m (s.afterItem m (.readBack a v equal)) rest
  | .wait us :: rest => State.answered m (s.afterItem m (.wait us)) rest

/-- The READ-class commands of a range, in address order (R269). -/
def readItems (m : Region) (start n : Nat) : List WireItem :=
  (List.range n).map fun q => .addressed (start + q) (readCmd m (start + q))

/-- `k` read-backs that do not match, each after the minimum delay (R282). -/
def failedPolls (m : Region) (a : Nat) (v : Byte) (k : Nat) : List WireItem :=
  (List.replicate k [.wait m.minWriteDelayUs, .readBack a v false]).flatten

/-- A poll whose read-back `k + 1` is the first that matches (R282). -/
def matchedPoll (m : Region) (a : Nat) (v : Byte) (k : Nat) : List WireItem :=
  failedPolls m a v k ++ [.wait m.minWriteDelayUs, .readBack a v true]

/-- How the write of one byte to a region that is not paged goes: the pre-read equals the byte (R281); the byte is a
sentinel (R283); or read-back `k + 1` is the first that matches (R282). -/
inductive ByteWrite where
  | skipped
  | sentinel
  | polled (k : Nat)
deriving DecidableEq, Repr

/-- When a write can go so: by the region's sentinels and the poll's bound. The pre-read is the items' to say. -/
def ByteWrite.allowed (m : Region) (bound : Nat) (d : Byte) : ByteWrite → Bool
  | .skipped => true
  | .sentinel => m.pollSentinels.contains d
  | .polled k => !m.pollSentinels.contains d && k < bound

/-- What it puts on the wires (R280 to R283). -/
def ByteWrite.items (m : Region) (a : Nat) (d : Byte) : ByteWrite → List WireItem
  | .skipped => [.readBack a d true]
  | .sentinel => [.readBack a d false, .addressed a (writeCmd m a d), .wait m.maxWriteDelayUs]
  | .polled k => [.readBack a d false, .addressed a (writeCmd m a d)] ++ matchedPoll m a d k

/-- The bytes from address `a` on, each with the way its write goes, in address order (R285). -/
def writeItems (m : Region) : Nat → List (Byte × ByteWrite) → List WireItem
  | _, [] => []
  | a, e :: rest => e.2.items m a e.1 ++ writeItems m (a + 1) rest

/-- `poll_tries` after those writes (R44, R282). -/
def triesAfterWrites (n : Nat) (writes : List (Byte × ByteWrite)) : Nat :=
  writes.foldl (fun n e => match e.2 with
    | .polled k => k
    | _ => n) n

/-- The highest-addressed byte that is not 0xFF, of the listed bytes at addresses `a`, `a + 1`, … (R291). -/
def polledByte (a : Nat) (ds : List Byte) : Option (Byte × Nat) := (ds.zipIdx a).reverse.find? fun x => x.1 ≠ 0xFF#8

/-- The LOADPAGE commands of the bytes at addresses `a`, `a + 1`, …, in address order (R290). -/
def loadItems (m : Region) (a : Nat) (ds : List Byte) : List WireItem :=
  (ds.zipIdx a).map fun x => .addressed x.2 (loadCmd m x.2 x.1)

/-- The WRITEPAGE command of the page that byte address `a` lies in, at the page's base (R290, R291). -/
def pageItem (m : Region) (a : Nat) : WireItem :=
  .addressed (a - a % m.pageSize) (pageCmd m (a - a % m.pageSize))

/-- How the completion of a page is established (R291): where every byte is 0xFF, or the polled byte is a sentinel, by the
maximum delay; else by read-backs of the polled byte, of which the `k + 1`-th is the first that matches. -/
def completionItems (m : Region) (a : Nat) (ds : List Byte) (k : Nat) : List WireItem :=
  match polledByte a ds with
  | none => [.wait m.maxWriteDelayUs]
  | some x => if m.pollSentinels.contains x.1 then [.wait m.maxWriteDelayUs] else matchedPoll m x.2 x.1 k

/-- The bytes of a range from address `a` on, page by page: load, commit, complete (R290, R293). -/
def pagesItems (m : Region) : Nat → List (List Byte × Nat) → List WireItem
  | _, [] => []
  | a, p :: rest =>
    loadItems m a p.1 ++ pageItem m a :: completionItems m a p.1 p.2 ++ pagesItems m (a + p.1.length) rest

/-- `poll_tries` after those pages (R44, R282, R291). -/
def triesAfterPages (m : Region) : Nat → List (List Byte × Nat) → Nat → Nat
  | _, [], n => n
  | a, p :: rest, n =>
    triesAfterPages m (a + p.1.length) rest (match polledByte a p.1 with
      | none => n
      | some x => if m.pollSentinels.contains x.1 then n else p.2)

/-- A range from address `a` on cut into its parts in one page each: none is empty, none leaves its page, and each but the
last ends at the page's boundary (R290). -/
def cutAtPages (pageSize : Nat) : Nat → List (List Byte) → Bool
  | _, [] => true
  | a, ds :: rest =>
    ds ≠ [] && a % pageSize + ds.length ≤ pageSize && (rest = [] || (a + ds.length) % pageSize = 0)
      && cutAtPages pageSize (a + ds.length) rest

/-! ### The session -/

/-- The states a host call may start in (R260). -/
def legalStart : HostCall → Fsm → Bool
  | .initialise, f => f == .disconnected
  | .readMemory _ _ _, f => f == .enabled
  | .writeMemory _ _ _, f => f == .enabled
  | .chipErase, f => f == .enabled
  | .disable, f => f == .enabled || f == .disconnected

/-- The state a host call that began in `f` ends in, by its result (R260, the last two columns). -/
def endState (c : HostCall) (f : Fsm) : CallResult → Fsm
  | .error (.resyncExhausted _) => .enabled
  | .error (.pollTimeout _ _ _ _) => .enabled
  | .error _ => f
  | _ => match c with
    | .disable => .disabled
    | _ => .enabled

/-- The invariants of R312 that a state can show, at a host-call boundary; (e) is about results and is stated of the
calls. With them, that a session past `initialize` has every required pin assigned (R135, R261). -/
structure SessionInv (s : State) : Prop where
  /-- (a) -/
  boundary : s.fsm = .disconnected ∨ s.fsm = .enabled ∨ s.fsm = .disabled
  /-- (b) -/
  sckIdle : s.lvlSck = false
  /-- (c) -/
  noPageVals : s.pageVals = []
  /-- (d) -/
  resyncBounded : s.resyncTries ≤ s.cfg.params.resyncBound
  /-- (d) -/
  pollBounded : s.pollTries ≤ s.cfg.params.pollBound
  /-- R135: `initialize` checked the pins, and they are immutable (R27) -/
  pinsAssigned : s.fsm = .enabled → ∀ p ∈ requiredPins s.cfg, (pinEntry s.cfg.pins p).line ≠ none

/-- What no exchange on the wires changes: all but the levels of the output pins, the trace and the environment's draws. -/
structure SameSession (s t : State) : Prop where
  cfg : t.cfg = s.cfg
  lvlAux : t.lvlAux = s.lvlAux
  fsm : t.fsm = s.fsm
  resyncTries : t.resyncTries = s.resyncTries
  peOk : t.peOk = s.peOk
  extLast : t.extLast = s.extLast
  pollTries : t.pollTries = s.pollTries
  cursor : t.cursor = s.cursor
  pageVals : t.pageVals = s.pageVals
  results : t.results = s.results
  pending : t.pending = s.pending
  profile : t.profile = s.profile
  lvlSck : t.lvlSck = s.lvlSck
  trace : s.trace <+: t.trace

end Sys2Proof.Machine
end

