-- ==== Sys2Proof/Certificates/Slice0/Obligations.lean ====
section
/-! DEFINITION. The statements for the provers. Each says what the spec's rule named in its docstring says of the model. -/

open Sys2Proof Sys2Proof.Machine

/-! ### Encoding -/

/-- The decoder reads back every well-formed instruction the encoder writes, in every profile that has it (R102, Part 3). -/
def Obligations.DecodeReadsEncodedInstruction : Prop :=
  ∀ (p : Profile) (i : Instr), p ∈ i.profiles → i.wf = true → decode p (encode i).bytes = .ok i

/-- What the decoder reads is a well-formed instruction of the profile, from exactly four bytes (R90, R102). -/
def Obligations.DecodedInstructionIsWellFormed : Prop :=
  ∀ (p : Profile) (bs : List Byte) (i : Instr), decode p bs = .ok i →
    bs.length = 4 ∧ p ∈ i.profiles ∧ i.wf = true

/-- No two rows of one profile accept the same word (R102). -/
def Obligations.RowsOfProfileDoNotOverlap : Prop :=
  ∀ (p : Profile) (w : Word) (r r' : Row), r ∈ p.rows → r' ∈ p.rows → r.accepts w = true → r'.accepts w = true →
    r.mask = r'.mask ∧ r.template = r'.template

/-- A word of each family, written out from the patterns of Part 3, is the instruction it stands for. -/
def Obligations.WordsOfPartThreeDecode : Prop :=
  decode .p0 [0b10101100#8, 0b01010011#8, 0x00#8, 0x00#8] = .ok .p0PgmEnable
  ∧ decode .p0 [0b10101100#8, 0b10000000#8, 0x00#8, 0x00#8] = .ok .p0ChipErase
  ∧ decode .p0 [0b00100000#8, 0b00000000#8, 0b00010010#8, 0x00#8] = .ok (.p0FlashReadLo 0x12)
  ∧ decode .p0 [0b01001000#8, 0b00000000#8, 0b00010010#8, 0x5A#8] = .ok (.p0FlashLoadpageHi 0x12 0x5A#8)
  ∧ decode .p0 [0b01001100#8, 0b00000000#8, 0b01000000#8, 0x00#8] = .ok (.p0FlashWritepage 0x40)
  ∧ decode .p0 [0b11000000#8, 0b00000000#8, 0b00010000#8, 0x42#8] = .ok (.p0EepromWrite 0x10 0x42#8)
  ∧ decode .p0 [0b10101100#8, 0b11100000#8, 0b00000000#8, 0b11111100#8] = .ok (.p0LockWrite 0x3C#8)
  ∧ decode .p1 [0b01001101#8, 0b00000000#8, 0b00000001#8, 0b00000000#8] = .ok (.p1FlashLoadExtAddr 0x10000)
  ∧ decode .p2 [0b01000000#8, 0b00000001#8, 0b11111111#8, 0xC3#8] = .ok (.p2FlashWriteLo 0x1FF 0xC3#8)

/-- R203: in the word that `build` cuts, every mapped position holds its operand bit and every other its constant bit, so
the word says every mapped bit of both operands. -/
def Obligations.BuildPlacesMappedBits : Prop :=
  ∀ (T : Template) (a : Nat) (d : Byte), T.wf = true →
    (∀ e ∈ T.addrMap, (build T (some a) (some d)).word.getLsbD e.1 = a.testBit e.2)
    ∧ (∀ e ∈ T.inputMap, (build T (some a) (some d)).word.getLsbD e.1 = d.getLsbD e.2)
    ∧ (∀ pos < 32, (∀ e ∈ T.addrMap ++ T.inputMap, e.1 ≠ pos) →
        (build T (some a) (some d)).word.getLsbD pos = T.constBits.getLsbD pos)
    ∧ (∀ (a' : Nat) (d' : Byte), build T (some a') (some d') = build T (some a) (some d) →
        (∀ e ∈ T.addrMap, a'.testBit e.2 = a.testBit e.2) ∧ ∀ e ∈ T.inputMap, d'.getLsbD e.2 = d.getLsbD e.2)

/-- R262, with R25, R30 and R66: the opcode is chosen by organisation and parity, and the address the codec receives is
the word address of a word-organised region and the byte address of another. The source says only that the opcodes
alternate by parity: that a region is word-organised exactly where READ_LO is defined, that the low opcode goes with the
even address (which the spec takes from general knowledge) and that the field address is then `a >> 1` are the spec's own
decision D11, and that a byte-organised page is loaded by LOADPAGE_LO is its decision D12; they are not the source's. -/
def Obligations.OpcodeSelectionByParity : Prop :=
  ∀ (m : Region) (a : Nat),
    (m.ops.readLo ≠ none →
      fieldAddr m a = a / 2
      ∧ (a % 2 = 0 → sel m .read a = .readLo ∧ sel m .write a = .writeLo ∧ sel m .loadpage a = .loadpageLo)
      ∧ (a % 2 = 1 → sel m .read a = .readHi ∧ sel m .write a = .writeHi ∧ sel m .loadpage a = .loadpageHi))
    ∧ (m.ops.readLo = none →
      fieldAddr m a = a ∧ sel m .read a = .read ∧ sel m .write a = .write ∧ sel m .loadpage a = .loadpageLo)

/-! ### PinTransport -/

/-- R130: `Set(p, v)` leaves `lvl[p] = v` and the line at `v xor inverted(p)`, traces itself, changes no other pin and
writes no flag. Where the call fails (R136), that it changes no level and traces nothing is the model's choice (log 4). -/
def Obligations.SetDrivesTheLevel : Prop :=
  ∀ (s : State) (p : Pin) (v : Bool),
    (s.faultAt 0 = none → ∃ t, setPin p v s = .done () t
      ∧ t.lvl p = some v ∧ t.line p = some (v ^^ (pinEntry s.cfg.pins p).inverted)
      ∧ t.trace = s.trace ++ [.set p v] ∧ t.peOk = s.peOk ∧ ∀ q, q ≠ p → t.lvl q = s.lvl q)
    ∧ (∀ e, s.faultAt 0 = some e → ∃ t, setPin p v s = .raised (.transport e) t
      ∧ t.trace = s.trace ∧ t.peOk = s.peOk ∧ ∀ q, t.lvl q = s.lvl q)

/-- R131: `Get(p)` returns the electrical level drawn from the environment xor `inverted(p)`, traces it with the value,
changes no pin and writes no flag; the next `Get` has a draw of its own. Where the call fails (R136), that it traces
nothing and makes no draw of a level is the model's choice (log 4). -/
def Obligations.GetSamplesTheEnvironment : Prop :=
  ∀ (s : State) (p : Pin),
    (s.faultAt 0 = none → ∃ t, getPin p s = .done (s.level 0 ^^ (pinEntry s.cfg.pins p).inverted) t
      ∧ t.trace = s.trace ++ [.get p (s.level 0 ^^ (pinEntry s.cfg.pins p).inverted)]
      ∧ t.peOk = s.peOk ∧ (∀ q, t.lvl q = s.lvl q) ∧ ∀ n, t.level n = s.level (n + 1))
    ∧ (∀ e, s.faultAt 0 = some e → ∃ t, getPin p s = .raised (.transport e) t
      ∧ t.trace = s.trace ∧ t.peOk = s.peOk ∧ (∀ q, t.lvl q = s.lvl q) ∧ ∀ n, t.level n = s.level n)

/-- R132, R133: a pulse restores the level it found and a delay changes no state; each is one event of the trace. Where
the call fails (R136), that it changes no level and traces nothing is the model's choice (log 4). -/
def Obligations.PulseAndDelayKeepLevels : Prop :=
  ∀ (s : State) (p : Pin) (us : Nat),
    (s.faultAt 0 = none →
      (∃ t, pulse p s = .done () t ∧ t.trace = s.trace ++ [.pulse p] ∧ t.peOk = s.peOk ∧ ∀ q, t.lvl q = s.lvl q)
      ∧ (∃ t, delay us s = .done () t ∧ t.trace = s.trace ++ [.delay us] ∧ t.peOk = s.peOk ∧ ∀ q, t.lvl q = s.lvl q))
    ∧ (∀ e, s.faultAt 0 = some e →
      (∃ t, pulse p s = .raised (.transport e) t ∧ t.trace = s.trace ∧ ∀ q, t.lvl q = s.lvl q)
      ∧ (∃ t, delay us s = .raised (.transport e) t ∧ t.trace = s.trace ∧ ∀ q, t.lvl q = s.lvl q))

/-! ### The SPI engine -/

/-- R98, R63: bit time t samples input bit 7 − t and carries output bit 7 − t, most significant first: the byte returned
is the 8 samples in that order, and the state is the exchange's. -/
def Obligations.TransmitByteExchange : Prop :=
  ∀ (s : State) (b : Byte), s.NoFault 24 → transmitByte b s = .done (s.byteAt 0) (s.afterByte b (s.byteAt 0))

/-- R151, R65: the four bytes in index order, 32 clocks in all. -/
def Obligations.TransmitCmdExchange : Prop :=
  ∀ (s : State) (c : Cmd), s.NoFault 96 → transmitCmd c s = .done (s.response 0) (s.afterCmd c (s.response 0))

/-- R153: every exchange that is done performed Get, Set and Pulse for each bit, in this order, 8 of each for a byte and
32 of each for a command. -/
def Obligations.ExchangeClockCounts : Prop :=
  (∀ (s t : State) (b r : Byte), transmitByte b s = .done r t →
    newEvents s t = byteEvents b r ∧ pulses (newEvents s t) = 8
    ∧ (newEvents s t).countP (fun e => e matches .get .sdi _) = 8
    ∧ (newEvents s t).countP (fun e => e matches .set .sdo _) = 8)
  ∧ (∀ (s t : State) (c r : Cmd), transmitCmd c s = .done r t →
    newEvents s t = cmdEvents c r ∧ pulses (newEvents s t) = 32
    ∧ (newEvents s t).countP (fun e => e matches .get .sdi _) = 32
    ∧ (newEvents s t).countP (fun e => e matches .set .sdo _) = 32)

/-- R154, the loopback law: where every `Get(Sdi)` returns the current `lvl[Sdo]`, the input is delayed by one bit. -/
def Obligations.LoopbackDelaysOneBit : Prop :=
  (∀ (s t : State) (b r : Byte), transmitByte b s = .done r t → loopbackAnswers s.lvlSdo (newEvents s t) = true →
    r = delayedByOne s.lvlSdo b)
  ∧ (∀ (s t : State) (c r : Cmd), transmitCmd c s = .done r t → loopbackAnswers s.lvlSdo (newEvents s t) = true →
    r = ⟨delayedByOne s.lvlSdo c.b0, delayedByOne (c.b0.getLsbD 0) c.b1, delayedByOne (c.b1.getLsbD 0) c.b2,
      delayedByOne (c.b2.getLsbD 0) c.b3⟩)

/-- R155, R71: against the reference target T0 (or T0s once enabled) at the start of a frame, the response is the echo of
the two first bytes, one byte later, then the memory byte of a READ-class command or the echo of the third. At any other
phase offset a plain T0 delays every byte by exactly 8 clocks: each byte from the second on is the byte sent before it, so
the echo check of R267 passes (R376). -/
def Obligations.ReferenceTargetEchoesOneByteLater : Prop :=
  (∀ (s t : State) (c r : Cmd) (tg : Target), transmitCmd c s = .done r t → tg.honours = true →
    tg.atFrameStart = true → tg.answers (newEvents s t) = true →
    r.b0 = 0#8 ∧ r.b1 = c.b0 ∧ r.b2 = c.b1
    ∧ r.b3 = (match decodeWord tg.profile (c.b0 ++ c.b1 ++ c.b2 ++ 0#8) with
      | some i => (match targetOp tg.extAddr i with
        | .read m a => tg.read m a
        | _ => c.b2)
      | none => c.b2))
  ∧ (∀ (s t : State) (c r : Cmd) (tg : Target), transmitCmd c s = .done r t → tg.gated = false → tg.taken = none →
    0 < tg.count → tg.count < 32 → tg.answers (newEvents s t) = true →
    r.b1 = c.b0 ∧ r.b2 = c.b1 ∧ r.b3 = c.b2)

/-! ### The TPI engine -/

/-- R99, R64, R172, R175: `tx_byte` sends start 0, the data bits least significant first, even parity, two stop bits,
each as Set and Pulse, and leaves the line at 1. -/
def Obligations.TpiFrameIsSent : Prop :=
  ∀ (s : State) (b : Byte), s.NoFault 24 →
    txByte b s = .done () (s.exchanged 24 0 true
      (tpiTxEvents ([false] ++ lsbFirst b ++ [decide (popcount b % 2 = 1), true, true])))

/-- R174, R178: a frame whose start bit is sample k. A wrong parity is raised after k + 9 pulses, before the stop bits; a
stop bit at 0 after both, k + 11 pulses; else the byte is returned after k + 11. -/
def Obligations.TpiFrameIsReceived : Prop :=
  ∀ (s : State) (k : Nat) (d : Byte) (p s1 s2 : Bool), 1 ≤ k → k ≤ s.cfg.params.startBitWindow →
    s.NoFault (2 * (k + 11) + 1) →
    s.Samples (List.replicate (k - 1) true ++ [false] ++ lsbFirst d ++ [p, s1, s2]) →
    rxByte s =
      if p ≠ decide (popcount d % 2 = 1) then
        .raised (.frame (.parityMismatch d p)) (s.exchanged (2 * (k + 9) + 1) (k + 9) true
          ([.set .sdo true] ++ tpiRxEvents (List.replicate (k - 1) true ++ [false] ++ lsbFirst d ++ [p])))
      else if s1 = false ∨ s2 = false then
        .raised (.frame (.framingError s1 s2)) (s.exchanged (2 * (k + 11) + 1) (k + 11) true
          ([.set .sdo true] ++ tpiRxEvents (List.replicate (k - 1) true ++ [false] ++ lsbFirst d ++ [p, s1, s2])))
      else
        .done d (s.exchanged (2 * (k + 11) + 1) (k + 11) true
          ([.set .sdo true] ++ tpiRxEvents (List.replicate (k - 1) true ++ [false] ++ lsbFirst d ++ [p, s1, s2])))

/-- R174, R178, R381: no 0 in `StartBitWindow` samples gives NoStartBit after as many pulses. -/
def Obligations.TpiStartBitMissing : Prop :=
  ∀ (s : State), s.NoFault (2 * s.cfg.params.startBitWindow + 1) →
    s.Samples (List.replicate s.cfg.params.startBitWindow true) →
    rxByte s = .raised (.frame .noStartBit)
      (s.exchanged (2 * s.cfg.params.startBitWindow + 1) s.cfg.params.startBitWindow true
        ([.set .sdo true] ++ tpiRxEvents (List.replicate s.cfg.params.startBitWindow true)))

/-- R179, the replay law: the levels of Sdo at the pulses of `tx_byte(b)`, replayed, are received as b with k = 1; with
any one bit after the start bit flipped, the result is ParityMismatch for a data or the parity bit and FramingError for
a stop bit. -/
def Obligations.TpiReplayLaw : Prop :=
  ∀ (u v : State) (b : Byte) (s : State), txByte b u = .done () v → 1 ≤ s.cfg.params.startBitWindow → s.NoFault 25 →
    (s.Samples (sdoAtPulses u.lvlSdo (newEvents u v)) →
      ∃ t, rxByte s = .done b t ∧ pulses (newEvents s t) = 12)
    ∧ (∀ n, 1 ≤ n → n ≤ 11 →
      s.Samples ((sdoAtPulses u.lvlSdo (newEvents u v)).modify n (!·)) →
      if n ≤ 9 then ∃ d p t, rxByte s = .raised (.frame (.parityMismatch d p)) t
      else ∃ s1 s2 t, rxByte s = .raised (.frame (.framingError s1 s2)) t)

/-- R177: one byte sent and one received: the frame, then the receive; and the first FrameError of any `rx_byte` of the
call ends it: the bytes before it are not returned and nothing is clocked after it. That the call runs in every session
state is the model's choice (log 23). -/
def Obligations.CmdTpiSendsThenReceives : Prop :=
  (∀ (s : State) (b d : Byte) (k : Nat), s.WiresAssigned → 1 ≤ k → k ≤ s.cfg.params.startBitWindow →
    s.NoFault (24 + (2 * (k + 11) + 1)) →
    s.Samples (List.replicate (k - 1) true ++ [false] ++ lsbFirst d ++ [decide (popcount d % 2 = 1), true, true]) →
    execEngineCall (.cmdTpi [b] 1) s = .next (returnResult (.bytes [d])
      (s.exchanged (24 + (2 * (k + 11) + 1)) (k + 11) true
        (tpiTxEvents ([false] ++ lsbFirst b ++ [decide (popcount b % 2 = 1), true, true]) ++ [.set .sdo true]
          ++ tpiRxEvents (List.replicate (k - 1) true ++ [false] ++ lsbFirst d
            ++ [decide (popcount d % 2 = 1), true, true])))))
  ∧ (∀ (s t u v : State) (tx bs : List Byte) (n k : Nat) (e : FrameError), s.WiresAssigned → k < n →
    txBytes tx s = .done () t → rxBytes k t = .done bs u → rxByte u = .raised (.frame e) v →
    execEngineCall (.cmdTpi tx n) s = .next (returnResult (.error (.frame e)) v))

/-! ### The ISP instructions, each with its own word -/

/-- R210, R230, R255: PGM_ENABLE sends AC 53 00 00; P0's attempt succeeds exactly where `res[2] = 0x53`, and P2 checks
nothing. That the word sent by itself returns the outcome of its attempt is the model's reading (log 26, DEDUCED), and so
is that no session state is asked for (log 6). -/
def Obligations.PgmEnableCompletes : Prop :=
  ∀ (s : State), s.WiresAssigned → s.NoFault 96 →
    exec .p0PgmEnable s = .next (afterIsp s 0xAC530000#32 fun r => .enableAttempt (some (r.b2 == 0x53#8)))
    ∧ exec .p2PgmEnable s = .next (afterIsp s 0xAC530000#32 fun _ => .enableAttempt none)

/-- R211, R231: CHIP_ERASE sends AC 80 00 00 and ignores the response (the spec's decision D38). That the word goes out by
itself, in every session state, with no Delay and no handshake after it (R375), is the model's choice (log 6). -/
def Obligations.ChipEraseCommandCompletes : Prop :=
  ∀ (s : State), s.WiresAssigned → s.NoFault 96 → exec .p0ChipErase s = .next (afterIsp s 0xAC800000#32 fun _ => .ok)

/-- R212, R222, R237, R239, R240, R242, R244, R246, R248: the READ instructions send their words and return `res[3]`.
That a word goes out by itself, in every session state, is the model's choice (log 6). -/
def Obligations.ReadByteInstructionsComplete : Prop :=
  ∀ (s : State) (fa : Nat), s.WiresAssigned → s.NoFault 96 →
    exec (.p0EepromRead fa) s = .next (afterIsp s (0xA0000000#32 ||| addrBits fa 0 10 8) fun r => .byte r.b3)
    ∧ exec (.p0SignatureRead fa) s = .next (afterIsp s (0x30000000#32 ||| addrBits fa 0 2 8) fun r => .byte r.b3)
    ∧ exec .p0LfuseRead s = .next (afterIsp s 0x50000000#32 fun r => .byte r.b3)
    ∧ exec .p0HfuseRead s = .next (afterIsp s 0x58080000#32 fun r => .byte r.b3)
    ∧ exec .p0EfuseRead s = .next (afterIsp s 0x50080000#32 fun r => .byte r.b3)
    ∧ exec .p0LockRead s = .next (afterIsp s 0x58000000#32 fun r => .byte r.b3)
    ∧ exec .p0CalibrationRead s = .next (afterIsp s 0x38000000#32 fun r => .byte r.b3)

/-- R213, R232, R250, R256: the READ_LO instructions send their words and return `res[3]`. That a word goes out by itself,
in every session state, with no LOAD_EXT_ADDR before P1's (R101, R213), is the model's choice (log 6). -/
def Obligations.ReadLowByteInstructionsComplete : Prop :=
  ∀ (s : State) (fa : Nat), s.WiresAssigned → s.NoFault 96 →
    exec (.p0FlashReadLo fa) s = .next (afterIsp s (0x20000000#32 ||| addrBits fa 0 14 8) fun r => .byte r.b3)
    ∧ exec (.p1FlashReadLo fa) s = .next (afterIsp s (0x20000000#32 ||| addrBits fa 0 16 8) fun r => .byte r.b3)
    ∧ exec (.p2FlashReadLo fa) s = .next (afterIsp s (0x20000000#32 ||| addrBits fa 0 9 8) fun r => .byte r.b3)

/-- R214, R233, R251, R257: the READ_HI instructions send their words and return `res[3]`. That a word goes out by itself,
in every session state, with no LOAD_EXT_ADDR before P1's (R101, R214), is the model's choice (log 6). -/
def Obligations.ReadHighByteInstructionsComplete : Prop :=
  ∀ (s : State) (fa : Nat), s.WiresAssigned → s.NoFault 96 →
    exec (.p0FlashReadHi fa) s = .next (afterIsp s (0x28000000#32 ||| addrBits fa 0 14 8) fun r => .byte r.b3)
    ∧ exec (.p1FlashReadHi fa) s = .next (afterIsp s (0x28000000#32 ||| addrBits fa 0 16 8) fun r => .byte r.b3)
    ∧ exec (.p2FlashReadHi fa) s = .next (afterIsp s (0x28000000#32 ||| addrBits fa 0 9 8) fun r => .byte r.b3)

/-- R215, R238, R241, R243, R245, R247: the WRITE instructions send their words (the lock write only the low six data
bits, under constant ones) and ignore the response (the spec's decision D38). That a word goes out by itself, in every
session state, with no pre-read before it (although R215, R281) and nothing after it, is the model's choice (log 6). -/
def Obligations.WriteByteInstructionsComplete : Prop :=
  ∀ (s : State) (fa : Nat) (d : Byte), s.WiresAssigned → s.NoFault 96 →
    exec (.p0EepromWrite fa d) s
      = .next (afterIsp s (0xC0000000#32 ||| addrBits fa 0 10 8 ||| d.setWidth 32) fun _ => .ok)
    ∧ exec (.p0LfuseWrite d) s = .next (afterIsp s (0xACA00000#32 ||| d.setWidth 32) fun _ => .ok)
    ∧ exec (.p0HfuseWrite d) s = .next (afterIsp s (0xACA80000#32 ||| d.setWidth 32) fun _ => .ok)
    ∧ exec (.p0EfuseWrite d) s = .next (afterIsp s (0xACA40000#32 ||| d.setWidth 32) fun _ => .ok)
    ∧ exec (.p0LockWrite d) s
      = .next (afterIsp s (0xACE000C0#32 ||| (d.setWidth 32 &&& 0x3F#32)) fun _ => .ok)

/-- R216, R217, R258, R259: WRITE_LO and WRITE_HI send their words and ignore the response (the spec's decision D38). That
a word goes out by itself, in every session state, with no pre-read before it (although R216, R217, R281) and nothing after
it, is the model's choice (log 6). -/
def Obligations.WriteWordHalvesComplete : Prop :=
  ∀ (s : State) (fa : Nat) (d : Byte), s.WiresAssigned → s.NoFault 96 →
    exec (.p2FlashWriteLo fa d) s
      = .next (afterIsp s (0x40000000#32 ||| addrBits fa 0 9 8 ||| d.setWidth 32) fun _ => .ok)
    ∧ exec (.p2FlashWriteHi fa d) s
      = .next (afterIsp s (0x48000000#32 ||| addrBits fa 0 9 8 ||| d.setWidth 32) fun _ => .ok)

/-- R218, R219, R234, R235, R252, R253: the LOADPAGE instructions send the in-page address bits and the data byte,
and ignore the response (the spec's decision D38). That a word goes out by itself, in every session state, with no
LOAD_EXT_ADDR before P1's (R101), is the model's choice (log 6). -/
def Obligations.LoadPageInstructionsComplete : Prop :=
  ∀ (s : State) (fa : Nat) (d : Byte), s.WiresAssigned → s.NoFault 96 →
    exec (.p0FlashLoadpageLo fa d) s
      = .next (afterIsp s (0x40000000#32 ||| addrBits fa 0 6 8 ||| d.setWidth 32) fun _ => .ok)
    ∧ exec (.p0FlashLoadpageHi fa d) s
      = .next (afterIsp s (0x48000000#32 ||| addrBits fa 0 6 8 ||| d.setWidth 32) fun _ => .ok)
    ∧ exec (.p1FlashLoadpageLo fa d) s
      = .next (afterIsp s (0x40000000#32 ||| addrBits fa 0 7 8 ||| d.setWidth 32) fun _ => .ok)
    ∧ exec (.p1FlashLoadpageHi fa d) s
      = .next (afterIsp s (0x48000000#32 ||| addrBits fa 0 7 8 ||| d.setWidth 32) fun _ => .ok)

/-- R220, R236, R254: the WRITEPAGE instructions send the page-number bits of the field address only, and ignore the
response (the spec's decision D38). That a word goes out by itself, in every session state, with no LOAD_EXT_ADDR before
P1's (R101) and no Delay and no poll after it (R374), is the model's choice (log 6). -/
def Obligations.WritePageInstructionsComplete : Prop :=
  ∀ (s : State) (fa : Nat), s.WiresAssigned → s.NoFault 96 →
    exec (.p0FlashWritepage fa) s = .next (afterIsp s (0x4C000000#32 ||| addrBits fa 6 8 14) fun _ => .ok)
    ∧ exec (.p1FlashWritepage fa) s = .next (afterIsp s (0x4C000000#32 ||| addrBits fa 7 9 15) fun _ => .ok)

/-- R221, R249: LOAD_EXT_ADDR sends bit 16 of the field address and leaves `ext_last` at its window, which is `fa >> 16`
at R8's value of AddrFieldBits; the response is ignored (the spec's decision D38). Two clauses are the model's choices:
that the shift follows the parameter (log 17), and that the word goes out by itself, in every session state, whether or
not the window changes (log 6). -/
def Obligations.LoadExtAddrCompletes : Prop :=
  ∀ (s : State) (fa : Nat), s.WiresAssigned → s.NoFault 96 →
    exec (.p1FlashLoadExtAddr fa) s
      = .next { afterIsp s (0x4D000000#32 ||| addrBits fa 16 1 8) (fun _ => .ok) with
        extLast := some (fa / 2 ^ s.cfg.params.addrFieldBits) }

/-- R136, R335: an ISP instruction whose k-th transport call fails performs the calls before it, returns the backend's
error unchanged, and leaves no register of the session changed but an emptied `page_vals`. Three clauses are the model's
choices: that the failing call is not in the trace (log 4), that an ISP word by itself empties `page_vals` as a host call
does (log 22), and that it runs in every session state (log 6). -/
def Obligations.IspTransportErrorEndsInstruction : Prop :=
  ∀ (i : Instr) (s : State) (k e : Nat), s.WiresAssigned → k < 96 → s.FaultAt k e →
    ∃ t, exec i s = .next t ∧ t.results = s.results ++ [.error (.transport e)]
      ∧ t.trace = s.trace ++ (cmdEvents (encode i) (s.response 0)).take k
      ∧ t.fsm = s.fsm ∧ t.pageVals = [] ∧ t.extLast = s.extLast ∧ t.peOk = s.peOk
      ∧ t.resyncTries = s.resyncTries ∧ t.pollTries = s.pollTries

/-- The frame of all 30 ISP instructions (R152, R48): one result is returned; nothing changes but `lvl[Sdo]`, the trace
and the environment's draws, and, of LOAD_EXT_ADDR, `ext_last`. Every byte of `page_vals` reads as before unless the
instruction ended in an error. That a word runs by itself, in every session state, is the model's choice (log 6). -/
def Obligations.IspInstructionFrame : Prop :=
  ∀ (i : Instr) (s t : State), exec i s = .next t →
    t.cfg = s.cfg ∧ t.lvlSck = s.lvlSck ∧ t.lvlAux = s.lvlAux ∧ t.fsm = s.fsm ∧ t.resyncTries = s.resyncTries
    ∧ t.peOk = s.peOk ∧ t.pollTries = s.pollTries ∧ t.cursor = s.cursor ∧ t.pending = s.pending
    ∧ t.profile = s.profile ∧ s.trace <+: t.trace
    ∧ ((∀ fa, i ≠ .p1FlashLoadExtAddr fa) → t.extLast = s.extLast)
    ∧ ∃ r, t.results = s.results ++ [r]
      ∧ ((∀ e, r ≠ .error e) → ∀ a, Memory.read? t.pageVals a = Memory.read? s.pageVals a)

/-! ### Steps -/

/-- A step runs the instruction that the next request's bytes decode to, with that request taken off; a host call and an
engine call run the same way, and a word placed for fetching runs as the instruction the decoder reads from it. -/
def Obligations.StepRunsTheNextRequest : Prop :=
  (∀ (s : State) (bytes : List Byte) (rest : List Request) (i : Instr), s.pending = .isp bytes :: rest →
    s.cfg.wf = true → decode s.profile bytes = .ok i → step s = exec i (s.withPending rest))
  ∧ (∀ (s : State) (c : HostCall) (rest : List Request), s.pending = .host c :: rest → s.cfg.wf = true →
    step s = execHostCall c (s.withPending rest))
  ∧ (∀ (s : State) (c : EngineCall) (rest : List Request), s.pending = .engine c :: rest → s.cfg.wf = true →
    step s = execEngineCall c (s.withPending rest))
  ∧ (∀ (s : State) (nbits w : Nat) (i : Instr), s.cfg.wf = true → decodeTableWord nbits w = some i →
    step (s.withFetchWord nbits w) = exec i { s with profile := tableProfile nbits w })

/-! ### Host calls -/

/-- R260: a call in a state the table does not list is refused; a call that answers returned one result and ended in the
table's state for that result; and `Disabled` is terminal. -/
def Obligations.HostCallStateTable : Prop :=
  ∀ (c : HostCall) (s : State),
    (legalStart c s.fsm = false → execHostCall c s = .refused (.illegalState s.fsm))
    ∧ (∀ t, execHostCall c s = .next t → legalStart c s.fsm = true
      ∧ ∃ r, t.results = s.results ++ [r] ∧ t.fsm = endState c s.fsm r)
    ∧ (s.fsm = .disabled → execHostCall c s = .refused (.illegalState .disabled))

/-- R311: a range outside the region is refused, before any check of the configuration. The source is silent here: R311
is the spec's own choice (D23). -/
def Obligations.OutOfRangeIsRefused : Prop :=
  ∀ (s : State) (rn : RegionName) (m : Region) (start : Nat), s.fsm = .enabled → findRegion s rn = some m →
    (∀ n, start + n > m.size → execHostCall (.readMemory rn start n) s = .refused (.outOfRange rn start n))
    ∧ (∀ data, start + data.length > m.size →
      execHostCall (.writeMemory rn start data) s = .refused (.outOfRange rn start data.length))

/-- R261, R331: a failed configuration check returns ConfigError and leaves every piece of state unchanged. That `disable`
has a check of its own is the model's reading of R135 (log 10). -/
def Obligations.ConfigErrorChangesNothing : Prop :=
  ∀ (s : State) (e : Err),
    (s.fsm = .disconnected → checkInitialise s.cfg = some e →
      execHostCall .initialise s = .next (returnResult (.error e) s))
    ∧ (s.fsm = .enabled → checkChipErase s.cfg = some e →
      execHostCall .chipErase s = .next (returnResult (.error e) s))
    ∧ (∀ rn m start n, s.fsm = .enabled → findRegion s rn = some m → start + n ≤ m.size →
      undefinedRegionOp? rn m (readNeeds m) = some e →
      execHostCall (.readMemory rn start n) s = .next (returnResult (.error e) s))
    ∧ (∀ rn m start data, s.fsm = .enabled → findRegion s rn = some m → start + data.length ≤ m.size →
      undefinedRegionOp? rn m (writeNeeds m) = some e →
      execHostCall (.writeMemory rn start data) s = .next (returnResult (.error e) s))
    ∧ (s.fsm = .enabled ∨ s.fsm = .disconnected → checkDisable s.cfg = some e →
      execHostCall .disable s = .next (returnResult (.error e) s))

/-- R135, R261, R338, R28: a request that would operate an unassigned pin reports the first one and does nothing else:
`initialize` in the order Sck, Sdo, Sdi, the preamble's pins (the postamble's last: the model's choice, log 11); `disable`
in that same order, of the pins its postamble operates; an ISP word and an engine call in the order Sck, Sdo, Sdi of the
pins they operate (which request checks which pins is the model's reading of R135, log 10). -/
def Obligations.FirstUnassignedPinIsReported : Prop :=
  ∀ (s : State) (before after : List Pin) (p : Pin),
    (∀ q ∈ before, (pinEntry s.cfg.pins q).line ≠ none) → (pinEntry s.cfg.pins p).line = none →
    (s.fsm = .disconnected →
      [.sck, .sdo, .sdi] ++ s.cfg.initPreamble.filterMap pinOpPin? ++ s.cfg.disablePostamble.filterMap pinOpPin?
        = before ++ p :: after →
      execHostCall .initialise s = .next (returnResult (.error (.unassignedPin p)) s))
    ∧ (s.fsm = .enabled ∨ s.fsm = .disconnected →
      ([Pin.sck, .sdo, .sdi] ++ s.cfg.initPreamble.filterMap pinOpPin? ++ s.cfg.disablePostamble.filterMap pinOpPin?).filter
        (fun q => decide (q ∈ s.cfg.disablePostamble.filterMap pinOpPin?)) = before ++ p :: after →
      execHostCall .disable s = .next (returnResult (.error (.unassignedPin p)) s))
    ∧ ([.sck, .sdo, .sdi] = before ++ p :: after →
      (∀ i, exec i s = .next (returnResult (.error (.unassignedPin p)) s))
      ∧ (∀ b, execEngineCall (.transmitByte b) s = .next (returnResult (.error (.unassignedPin p)) s))
      ∧ (∀ c, execEngineCall (.transmitCmd c) s = .next (returnResult (.error (.unassignedPin p)) s))
      ∧ execEngineCall .rxByte s = .next (returnResult (.error (.unassignedPin p)) s)
      ∧ ∀ tx n, execEngineCall (.cmdTpi tx (n + 1)) s = .next (returnResult (.error (.unassignedPin p)) s))
    ∧ ([.sck, .sdo] = before ++ p :: after →
      (∀ b, execEngineCall (.txByte b) s = .next (returnResult (.error (.unassignedPin p)) s))
      ∧ ∀ b tx, execEngineCall (.cmdTpi (b :: tx) 0) s = .next (returnResult (.error (.unassignedPin p)) s))

/-- R261, R331, R338: what each host call needs, and that the first undefined opcode of its list is reported: the classes
of a read or a write of a region; PGM_ENABLE for `initialize`, after its pins; CHIP_ERASE, then PGM_ENABLE, for
`chip_erase`. -/
def Obligations.NeededOpcodesInOrder : Prop :=
  (∀ (s : State) (rn : RegionName) (m : Region) (start : Nat) (data : List Byte) (before after : List OpName) (o : OpName),
    s.fsm = .enabled → findRegion s rn = some m → start + data.length ≤ m.size →
    (∀ x ∈ before, regionOp m x ≠ none) → regionOp m o = none →
    ((if m.ops.readLo.isSome then [.readLo, .readHi] else [.read]) = before ++ o :: after →
      execHostCall (.readMemory rn start data.length) s
        = .next (returnResult (.error (.undefinedOpcode (.region rn o))) s))
    ∧ ((if 0 < m.pageSize ∧ m.ops.writepage ≠ none then
          (if m.ops.readLo.isSome then [.loadpageLo, .loadpageHi, .writepage, .readLo, .readHi]
            else [.loadpageLo, .writepage, .read])
        else (if m.ops.readLo.isSome then [.writeLo, .writeHi, .readLo, .readHi] else [.write, .read]))
          = before ++ o :: after →
      execHostCall (.writeMemory rn start data) s
        = .next (returnResult (.error (.undefinedOpcode (.region rn o))) s)))
  ∧ (∀ (s : State), s.fsm = .disconnected → (∀ q ∈ requiredPins s.cfg, (pinEntry s.cfg.pins q).line ≠ none) →
    s.cfg.part.pgmEnable = none →
    execHostCall .initialise s = .next (returnResult (.error (.undefinedOpcode .pgmEnable)) s))
  ∧ (∀ (s : State), s.fsm = .enabled →
    (s.cfg.part.chipErase = none →
      execHostCall .chipErase s = .next (returnResult (.error (.undefinedOpcode .chipErase)) s))
    ∧ (s.cfg.part.chipErase ≠ none → s.cfg.part.pgmEnable = none →
      execHostCall .chipErase s = .next (returnResult (.error (.undefinedOpcode .pgmEnable)) s)))

/-- R265: a part whose PGM_ENABLE has no poll field gets the preamble and one PGM_ENABLE, unchecked, and is Enabled. -/
def Obligations.NonEchoingPartIsEnabled : Prop :=
  ∀ (s : State) (T : Template), s.fsm = .disconnected → checkInitialise s.cfg = none → s.cfg.part.pgmEnable = some T →
    T.poll = none → s.NoFault (s.cfg.initPreamble.length + 96) →
    execHostCall .initialise s = .next (returnResult .ok
      { (({ s with extLast := none }.clearHandshake.afterPinOps s.cfg.initPreamble).afterCmd (build T none none)
          (s.response 0)) with fsm := .enabled, peOk := true })

/-- R266, corner case (i): success on attempt k + 1 leaves `resync_tries = k` and Enabled; the trace is the preamble,
then k times the full command and one pulse, then the command. -/
def Obligations.HandshakeSucceedsAfterFailures : Prop :=
  ∀ (s : State) (T : Template) (pl : Fin 4 × Byte) (k : Nat), s.fsm = .disconnected → checkInitialise s.cfg = none →
    s.cfg.part.pgmEnable = some T → T.poll = some pl → k < s.cfg.params.resyncBound →
    s.NoFault (s.cfg.initPreamble.length + (97 * k + 96)) →
    (∀ j < k, (s.response (32 * j)).byte pl.1 ≠ pl.2) → (s.response (32 * k)).byte pl.1 = pl.2 →
    execHostCall .initialise s = .next (returnResult .ok
      { (({ s with extLast := none }.clearHandshake.afterPinOps s.cfg.initPreamble).exchanged (97 * k + 96)
          (32 * (k + 1)) ((build T none none).b3.getLsbD 0)
          (failedAttempts s (build T none none) k ++ cmdEvents (build T none none) (s.response (32 * k)))) with
        fsm := .enabled, peOk := true, resyncTries := k })

/-- R266, R332: after exactly ResyncBound failed attempts, each with one pulse after it, ResyncExhausted is returned, with
Enabled and `pe_ok = false`. -/
def Obligations.ResyncExhaustedAtTheBound : Prop :=
  ∀ (s : State) (T : Template) (pl : Fin 4 × Byte), s.fsm = .disconnected → checkInitialise s.cfg = none →
    s.cfg.part.pgmEnable = some T → T.poll = some pl → 1 ≤ s.cfg.params.resyncBound →
    s.NoFault (s.cfg.initPreamble.length + 97 * s.cfg.params.resyncBound) →
    (∀ j < s.cfg.params.resyncBound, (s.response (32 * j)).byte pl.1 ≠ pl.2) →
    execHostCall .initialise s = .next (returnResult (.error (.resyncExhausted s.cfg.params.resyncBound))
      { (({ s with extLast := none }.clearHandshake.afterPinOps s.cfg.initPreamble).exchanged
          (97 * s.cfg.params.resyncBound) (32 * s.cfg.params.resyncBound) ((build T none none).b3.getLsbD 0)
          (failedAttempts s (build T none none) s.cfg.params.resyncBound)) with
        fsm := .enabled, peOk := false, resyncTries := s.cfg.params.resyncBound })

/-- R269, R268, R264: `read_memory` sends one READ-class command for each byte, in address order, each after its
LOAD_EXT_ADDR where the region has one and the window is new, and returns the output byte of each response. The trace is
stated without its progress events, which a model may drop (R310, D28, I16). -/
def Obligations.ReadMemoryReturnsEachByte : Prop :=
  ∀ (s : State) (rn : RegionName) (m : Region) (start n : Nat), s.fsm = .enabled → findRegion s rn = some m →
    start + n ≤ m.size → undefinedRegionOp? rn m (readNeeds m) = none →
    let s₀ := { s with extLast := none }
    let u := s₀.afterItems m (readItems m start n)
    s₀.NoFault (s₀.callsOf m (readItems m start n)) →
    ∃ t, execHostCall (.readMemory rn start n) s = .next t
      ∧ t.results = s.results ++ [.bytes ((List.range n).map fun q =>
        readOut m (start + q) ((s₀.afterItems m (readItems m start q)).answer m (start + q)))]
      ∧ AddsEventsOf s u t ∧ t = { u with trace := t.trace, results := t.results }

/-- R264: LOAD_EXT_ADDR is sent exactly where the region defines it and the window differs from the last one sent. The
window is of `2^AddrFieldBits` field addresses, R264's 16 bits at R8's value (log 17). -/
def Obligations.LoadExtAddrOnlyForNewWindow : Prop :=
  ∀ (m : Region) (fa : Nat) (s : State),
    (m.ops.loadExtAddr = none → leaIfNeeded m fa s = .done () s)
    ∧ (s.extLast = some (fa / 2 ^ s.cfg.params.addrFieldBits) → leaIfNeeded m fa s = .done () s)
    ∧ (∀ T, m.ops.loadExtAddr = some T → s.extLast ≠ some (fa / 2 ^ s.cfg.params.addrFieldBits) → s.NoFault 96 →
      leaIfNeeded m fa s = .done () { s.afterCmd (build T (some fa) none) (s.response 0) with
        extLast := some (fa / 2 ^ s.cfg.params.addrFieldBits) })

/-- R264, R269, R221: the first addressed command of a call on a region with LOAD_EXT_ADDR is preceded by one, whatever
`ext_last` was before the call; the second is preceded by one exactly where its window is another (vector R4). The trace
is stated without its progress events, which a model may drop (R310, D28, I16). -/
def Obligations.FirstReadOfCallSendsLoadExtAddr : Prop :=
  ∀ (s : State) (rn : RegionName) (m : Region) (a : Nat) (T : Template), s.fsm = .enabled → findRegion s rn = some m →
    undefinedRegionOp? rn m (readNeeds m) = none → m.ops.loadExtAddr = some T →
    let windowOf := fun a => fieldAddr m a / 2 ^ s.cfg.params.addrFieldBits
    let lea := fun a => build T (some (fieldAddr m a)) none
    (a + 1 ≤ m.size → s.NoFault 192 →
      ∃ t, execHostCall (.readMemory rn a 1) s = .next t ∧ t.extLast = some (windowOf a) ∧ s.trace <+: t.trace
        ∧ t.results = s.results ++ [.bytes [readOut m a (s.response 32)]]
        ∧ withoutProgress (newEvents s t) = cmdEvents (lea a) (s.response 0) ++ cmdEvents (readCmd m a) (s.response 32))
    ∧ (a + 2 ≤ m.size → windowOf a ≠ windowOf (a + 1) → s.NoFault 384 →
      ∃ t, execHostCall (.readMemory rn a 2) s = .next t ∧ t.extLast = some (windowOf (a + 1)) ∧ s.trace <+: t.trace
        ∧ t.results = s.results ++ [.bytes [readOut m a (s.response 32), readOut m (a + 1) (s.response 96)]]
        ∧ withoutProgress (newEvents s t) = cmdEvents (lea a) (s.response 0) ++ cmdEvents (readCmd m a) (s.response 32)
          ++ cmdEvents (lea (a + 1)) (s.response 64) ++ cmdEvents (readCmd m (a + 1)) (s.response 96))
    ∧ (a + 2 ≤ m.size → windowOf a = windowOf (a + 1) → s.NoFault 288 →
      ∃ t, execHostCall (.readMemory rn a 2) s = .next t ∧ t.extLast = some (windowOf a) ∧ s.trace <+: t.trace
        ∧ t.results = s.results ++ [.bytes [readOut m a (s.response 32), readOut m (a + 1) (s.response 64)]]
        ∧ withoutProgress (newEvents s t) = cmdEvents (lea a) (s.response 0) ++ cmdEvents (readCmd m a) (s.response 32)
          ++ cmdEvents (readCmd m (a + 1)) (s.response 64))

/-- R281: where the byte read equals the byte to write, `write_byte` is that one read: no write, no poll, no delay. -/
def Obligations.EqualByteIsNotWritten : Prop :=
  ∀ (s : State) (rn : RegionName) (m : Region) (a : Nat) (d : Byte), regionOp m (sel m .read a) ≠ none → NoLeaFor m a s →
    s.NoFault 96 → readOut m a (s.response 0) = d →
    writeByte rn m a d s = .done () (s.afterCmd (readCmd m a) (s.response 0))

/-- R283, R280: a write of a sentinel is the pre-read, the write command, and one `Delay(max)`: no read-back. -/
def Obligations.SentinelWriteWaitsOnce : Prop :=
  ∀ (s : State) (rn : RegionName) (m : Region) (a : Nat) (d : Byte), regionOp m (sel m .read a) ≠ none →
    regionOp m (sel m .write a) ≠ none → NoLeaFor m a s → s.NoFault 193 → readOut m a (s.response 0) ≠ d →
    d ∈ m.pollSentinels →
    writeByte rn m a d s = .done () (s.exchanged 193 64 ((writeCmd m a d).b3.getLsbD 0)
      (cmdEvents (readCmd m a) (s.response 0) ++ cmdEvents (writeCmd m a d) (s.response 32)
        ++ [.delay m.maxWriteDelayUs]))

/-- R280, R282, corner case (i): a write whose read-back k + 1 is the first that matches is done after the pre-read, the
write command, and k + 1 times a `Delay(min)` and a read; `poll_tries` is left at k. -/
def Obligations.WritePollsUntilMatch : Prop :=
  ∀ (s : State) (rn : RegionName) (m : Region) (a : Nat) (d : Byte) (k : Nat), regionOp m (sel m .read a) ≠ none →
    regionOp m (sel m .write a) ≠ none → NoLeaFor m a s → k < s.cfg.params.pollBound →
    s.NoFault (192 + 97 * (k + 1)) → readOut m a (s.response 0) ≠ d → d ∉ m.pollSentinels →
    (∀ j < k, readOut m a (s.response (64 + 32 * j)) ≠ d) → readOut m a (s.response (64 + 32 * k)) = d →
    writeByte rn m a d s = .done () { s.exchanged (192 + 97 * (k + 1)) (64 + 32 * (k + 1)) ((readCmd m a).b3.getLsbD 0)
      (cmdEvents (readCmd m a) (s.response 0) ++ cmdEvents (writeCmd m a d) (s.response 32)
        ++ pollEvents s m a 64 (k + 1)) with pollTries := k }

/-- R282, R333: a write that no read-back matches is reported after exactly PollBound of them, with the address, the
expected byte and the last one observed; nothing is written again. -/
def Obligations.PollTimeoutAtTheBound : Prop :=
  ∀ (s : State) (rn : RegionName) (m : Region) (a : Nat) (d : Byte) (n : Nat), regionOp m (sel m .read a) ≠ none →
    regionOp m (sel m .write a) ≠ none → NoLeaFor m a s → s.cfg.params.pollBound = n + 1 →
    s.NoFault (192 + 97 * (n + 1)) → readOut m a (s.response 0) ≠ d → d ∉ m.pollSentinels →
    (∀ j ≤ n, readOut m a (s.response (64 + 32 * j)) ≠ d) →
    writeByte rn m a d s = .raised (.pollTimeout rn a d (readOut m a (s.response (64 + 32 * n))))
      { s.exchanged (192 + 97 * (n + 1)) (64 + 32 * (n + 1)) ((readCmd m a).b3.getLsbD 0)
        (cmdEvents (readCmd m a) (s.response 0) ++ cmdEvents (writeCmd m a d) (s.response 32)
          ++ pollEvents s m a 64 (n + 1)) with pollTries := n + 1 }

/-- R285, R280 to R283, R333: `write_memory` on a region that is not paged writes its bytes in address order, each by the
pre-read and, as that and the sentinels say, nothing more, a write and the maximum delay, or a write and its poll; each
command after its LOAD_EXT_ADDR where one is due (R264). It ends Ok after the last byte, or at the first byte that times
out, with the later bytes unwritten. The trace is stated without its progress events, which a model may drop (R310, D28,
I16). -/
def Obligations.WriteMemoryWritesBytesInOrder : Prop :=
  ∀ (s : State) (rn : RegionName) (m : Region) (start : Nat) (writes : List (Byte × ByteWrite)), s.fsm = .enabled →
    findRegion s rn = some m → paged m = false → undefinedRegionOp? rn m (writeNeeds m) = none →
    (∀ w ∈ writes, w.2.allowed m s.cfg.params.pollBound w.1 = true) →
    let s₀ := { s with extLast := none }
    let items := writeItems m start writes
    let u := s₀.afterItems m items
    (start + writes.length ≤ m.size → s₀.NoFault (s₀.callsOf m items) → s₀.answered m items = true →
      ∃ t, execHostCall (.writeMemory rn start (writes.map Prod.fst)) s = .next t
        ∧ t.results = s.results ++ [.ok] ∧ AddsEventsOf s u t
        ∧ t = { u with trace := t.trace, results := t.results, pollTries := triesAfterWrites s.pollTries writes })
    ∧ (∀ (d : Byte) (rest : List Byte) (n : Nat), d ∉ m.pollSentinels → s.cfg.params.pollBound = n + 1 →
      start + (writes.length + (rest.length + 1)) ≤ m.size →
      let a := start + writes.length
      let tried := items ++ [.readBack a d false, .addressed a (writeCmd m a d)] ++ failedPolls m a d n
        ++ [.wait m.minWriteDelayUs]
      let u' := s₀.afterItems m (tried ++ [.readBack a d false])
      s₀.NoFault (s₀.callsOf m (tried ++ [.readBack a d false])) →
      s₀.answered m (tried ++ [.readBack a d false]) = true →
      ∃ t, execHostCall (.writeMemory rn start (writes.map Prod.fst ++ d :: rest)) s = .next t
        ∧ t.results = s.results
          ++ [.error (.pollTimeout rn a d (readOut m a ((s₀.afterItems m tried).answer m a)))]
        ∧ AddsEventsOf s u' t
        ∧ t = { u' with trace := t.trace, results := t.results, pollTries := n + 1, pageVals := [] })

/-- R291: the byte a page poll reads is the highest-addressed byte that is not 0xFF, and there is none exactly where
every byte is 0xFF. -/
def Obligations.PagePollByteIsHighest : Prop :=
  ∀ (m : Memory),
    (∀ c, Memory.highestNotErased m = some c → c ∈ m ∧ c.2 ≠ 0xFF#8 ∧ ∀ x ∈ m, x.2 ≠ 0xFF#8 → x.1 ≤ c.1)
    ∧ (Memory.highestNotErased m = none ↔ ∀ x ∈ m, x.2 = 0xFF#8)

/-- R290 to R293: `write_memory` on a paged region, its range cut at the page boundaries: for each part one LOADPAGE
command for each byte in address order, one WRITEPAGE at the page's base, then the maximum delay where every byte is 0xFF
or the highest byte that is not is a sentinel, else the poll of that byte (R291); each command after its LOAD_EXT_ADDR
where one is due (R264). It ends Ok after the last page, or at the first page that times out, with the later bytes not
loaded. The trace is stated without its progress events, which a model may drop (R310, D28, I16); the cursor after the
call is left out (log 18). -/
def Obligations.PagedWriteLoadsCommitsAndPolls : Prop :=
  ∀ (s : State) (rn : RegionName) (m : Region) (start : Nat) (parts : List (List Byte × Nat)), s.fsm = .enabled →
    findRegion s rn = some m → paged m = true → undefinedRegionOp? rn m (writeNeeds m) = none →
    (∀ p ∈ parts, p.2 < s.cfg.params.pollBound) →
    let s₀ := { s with extLast := none }
    let items := pagesItems m start parts
    let loaded := (parts.map Prod.fst).flatten
    let u := s₀.afterItems m items
    (cutAtPages m.pageSize start (parts.map Prod.fst) = true → start + loaded.length ≤ m.size →
      s₀.NoFault (s₀.callsOf m items) → s₀.answered m items = true →
      ∃ t, execHostCall (.writeMemory rn start loaded) s = .next t
        ∧ t.results = s.results ++ [.ok] ∧ AddsEventsOf s u t
        ∧ t = { u with
            trace := t.trace, results := t.results, pollTries := triesAfterPages m start parts s.pollTries
            cursor := t.cursor, pageVals := [] })
    ∧ (∀ (ds rest : List Byte) (v : Byte) (pa n : Nat), cutAtPages m.pageSize start (parts.map Prod.fst ++ [ds]) = true →
      polledByte (start + loaded.length) ds = some (v, pa) → v ∉ m.pollSentinels → s.cfg.params.pollBound = n + 1 →
      rest = [] ∨ (start + loaded.length + ds.length) % m.pageSize = 0 →
      start + (loaded.length + (ds.length + rest.length)) ≤ m.size →
      let a := start + loaded.length
      let tried := items ++ loadItems m a ds ++ [pageItem m a] ++ failedPolls m pa v n ++ [.wait m.minWriteDelayUs]
      let u' := s₀.afterItems m (tried ++ [.readBack pa v false])
      s₀.NoFault (s₀.callsOf m (tried ++ [.readBack pa v false])) →
      s₀.answered m (tried ++ [.readBack pa v false]) = true →
      ∃ t, execHostCall (.writeMemory rn start (loaded ++ (ds ++ rest))) s = .next t
        ∧ t.results = s.results
          ++ [.error (.pollTimeout rn pa v (readOut m pa ((s₀.afterItems m tried).answer m pa)))]
        ∧ AddsEventsOf s u' t
        ∧ t = { u' with
            trace := t.trace, results := t.results, pollTries := n + 1, cursor := t.cursor, pageVals := [] })

/-- R300, R375, R265: `chip_erase` sends CHIP_ERASE, waits the part's delay, and runs the preamble and the handshake again:
of a part whose PGM_ENABLE has a poll field (here matched at the first attempt), and of one whose PGM_ENABLE has none,
which is not checked. -/
def Obligations.ChipEraseRunsTheHandshake : Prop :=
  ∀ (s : State) (E T : Template), s.fsm = .enabled → s.cfg.part.chipErase = some E → s.cfg.part.pgmEnable = some T →
    T.poll = none ∨ (1 ≤ s.cfg.params.resyncBound ∧ ∃ pl, T.poll = some pl ∧ (s.response 32).byte pl.1 = pl.2) →
    s.NoFault (97 + (s.cfg.initPreamble.length + 96)) →
    ∃ t, execHostCall .chipErase s = .next t ∧ t.results = s.results ++ [.ok]
      ∧ t.fsm = .enabled ∧ t.peOk = true ∧ t.resyncTries = 0 ∧ t.extLast = none
      ∧ t.pollTries = s.pollTries ∧ t.pageVals = s.pageVals
      ∧ t.trace = s.trace ++ cmdEvents (build E none none) (s.response 0) ++ [.delay s.cfg.part.chipEraseDelayUs]
        ++ pinOpEvents s.cfg.initPreamble ++ cmdEvents (build T none none) (s.response 32)

/-- R305, R383: `disable` performs the postamble and ends in Disabled, from Enabled and from Disconnected. (`ext_last` is
none after it: the model's reading of R43, log 12.) -/
def Obligations.DisableRunsThePostamble : Prop :=
  ∀ (s : State), s.fsm = .enabled ∨ s.fsm = .disconnected →
    (∀ q ∈ s.cfg.disablePostamble.filterMap pinOpPin?, (pinEntry s.cfg.pins q).line ≠ none) →
    s.NoFault s.cfg.disablePostamble.length →
    execHostCall .disable s = .next (returnResult .ok
      { ({ s with extLast := none }.afterPinOps s.cfg.disablePostamble) with fsm := .disabled })

/-- R335: a host call that ends in TransportError leaves `fsm` as at its start and `page_vals` empty. -/
def Obligations.TransportErrorEndsHostCall : Prop :=
  ∀ (c : HostCall) (s t : State) (e : Nat), execHostCall c s = .next t →
    t.results = s.results ++ [.error (.transport e)] → t.fsm = s.fsm ∧ t.pageVals = []

/-- R312 (e), R266, R332: a handshake that returned Ok leaves `pe_ok` true and Enabled; one that returned
ResyncExhausted leaves it false and Enabled. -/
def Obligations.HandshakeResultSaysPeOk : Prop :=
  ∀ (c : HostCall) (s t : State), c = .initialise ∨ c = .chipErase → execHostCall c s = .next t →
    (t.results = s.results ++ [.ok] → t.peOk = true ∧ t.fsm = .enabled)
    ∧ (∀ n, t.results = s.results ++ [.error (.resyncExhausted n)] → t.peOk = false ∧ t.fsm = .enabled)

/-- R42, R41: only `initialize` and `chip_erase` write `pe_ok` and `resync_tries`. -/
def Obligations.OnlyHandshakesWritePeOk : Prop :=
  ∀ (s t : State), step s = .next t →
    s.pending.head? ≠ some (.host .initialise) → s.pending.head? ≠ some (.host .chipErase) →
    t.peOk = s.peOk ∧ t.resyncTries = s.resyncTries

/-! ### The session -/

/-- R312, R135: every step keeps the invariants of a host-call boundary, `lvl[Sck] = 0` among them, and every required pin
stays assigned once `initialize` has passed its check. That a transport error inside the preamble or the postamble leaves
`lvl[Sck]` as it was before, and that a postamble leaving it active has no session, is the model's reading of R312 (b)
(log 21). -/
def Obligations.StepKeepsSessionInvariants : Prop :=
  ∀ (s t : State), SessionInv s → step s = .next t → SessionInv t

/-- R50, R371, R312: the session registers when a session is created; the invariants of a host-call boundary hold then. -/
def Obligations.SessionAtReset : Prop :=
  SessionInv State.reset
  ∧ State.reset.fsm = .disconnected ∧ State.reset.lvlSck = false ∧ State.reset.resyncTries = 0
  ∧ State.reset.peOk = false ∧ State.reset.extLast = none ∧ State.reset.pollTries = 0 ∧ State.reset.cursor = 0
  ∧ State.reset.pageVals = [] ∧ State.reset.trace = []

/-- R135, R338: no step operates a pin that is unassigned, whatever the request, in a state of a session. That an engine
call and an ISP word check the pins they operate is the model's reading (log 10). -/
def Obligations.StepOperatesAssignedPinsOnly : Prop :=
  ∀ (s t : State), SessionInv s → step s = .next t →
    ∀ ev ∈ newEvents s t, ∀ p, eventPin? ev = some p → (pinEntry s.cfg.pins p).line ≠ none

/-- R20, R80, R47: no step writes the configuration, and the trace and the results only grow. -/
def Obligations.StepNeverWritesConfiguration : Prop :=
  ∀ (s t : State), step s = .next t →
    t.cfg = s.cfg ∧ t.profile = s.profile ∧ s.trace <+: t.trace ∧ s.results <+: t.results

/-- R45: `page_vals[a] <- d` is what `page_vals` then holds at a, and every other address holds what it held. -/
def Obligations.PageValsReadAfterStore : Prop :=
  ∀ (m : Memory) (a : Nat) (d : Byte), Memory.wf m = true →
    Memory.read? (Memory.store m a d) a = some d
    ∧ ∀ x, x ≠ a → Memory.read? (Memory.store m a d) x = Memory.read? m x
end

