-- ==== Sys2Proof/Laws/Codec.lean ====
section
/-! SUPPORT. What the codec's placing of bits does, bit by bit, and that cutting a word into bytes loses nothing. -/

namespace Sys2Proof

/-- Placing bits sets exactly the mapped positions whose operand bit is 1. -/
theorem getLsbD_placeBits (f : Nat → Bool) (l : List (Nat × Nat)) (w : Word) {i : Nat} (hi : i < 32) :
    (placeBits f l w).getLsbD i = (w.getLsbD i || l.any fun e => e.1 == i && f e.2) := by
  induction l generalizing w with
  | nil => simp [placeBits]
  | cons e rest ih =>
    obtain ⟨pos, k⟩ := e
    rw [placeBits, ih]
    by_cases hk : f k
    · by_cases hp : pos = i
      · simp [hk, hp, hi]
      · have h1 : (pos == i) = false := by simpa using hp
        simp [hk, h1, hp]
    · simp [hk]

theorem Cmd.word_ofWord (w : Word) : (Cmd.ofWord w).word = w := by
  simp only [Cmd.word, Cmd.ofWord]
  apply BitVec.eq_of_getLsbD_eq
  intro i hi
  simp only [BitVec.getLsbD_append, BitVec.getLsbD_extractLsb']
  by_cases h0 : i < 8
  · simp [h0]
  by_cases h1 : i - 8 < 8
  · have e : 8 + (i - 8) = i := by omega
    simp [h0, h1, e]
  by_cases h2 : i - 8 - 8 < 8
  · have e : 16 + (i - 8 - 8) = i := by omega
    simp [h0, h1, h2, e]
  · have e : 24 + (i - 8 - 8 - 8) = i := by omega
    have h3 : i - 8 - 8 - 8 < 8 := by omega
    simp [h0, h1, h2, h3, e]

/-- The decoder reads the word that the encoder's bytes were cut from. -/
theorem decode_bytes_ofWord (p : Profile) (w : Word) (i : Instr) :
    decode p (Cmd.ofWord w).bytes = .ok i ↔ decodeWord p w = some i := by
  have h : Cmd.word ⟨(Cmd.ofWord w).b0, (Cmd.ofWord w).b1, (Cmd.ofWord w).b2, (Cmd.ofWord w).b3⟩ = w :=
    Cmd.word_ofWord w
  simp only [decode, Cmd.bytes, h]
  cases decodeWord p w <;> simp

/-- The mask names no position of the map. -/
def maskFree (mask : Word) (l : List (Nat × Nat)) : Bool := l.all fun e => !mask.getLsbD e.1

theorem placeBits_and_mask (f : Nat → Bool) (l : List (Nat × Nat)) (w mask : Word) (h : maskFree mask l = true) :
    placeBits f l w &&& mask = w &&& mask := by
  apply BitVec.eq_of_getLsbD_eq
  intro i hi
  rw [BitVec.getLsbD_and, BitVec.getLsbD_and, getLsbD_placeBits f l w hi]
  rcases hm : mask.getLsbD i with _ | _
  · simp
  · have : (l.any fun e => e.1 == i && f e.2) = false := by
      rw [List.any_eq_false]
      intro e he
      have := List.all_eq_true.1 h e he
      rcases eq_or_ne e.1 i with h1 | h1
      · simp [h1, hm] at this
      · simp [h1]
    simp [this]

/-- The block's own word for a template has the fixed bits of a row with that template. -/
theorem Row.accepts_build (r : Row) (addr : Option Nat) (input : Option Byte)
    (hc : r.template.constBits &&& r.mask = r.template.constBits) (ha : maskFree r.mask r.template.addrMap = true)
    (hi : maskFree r.mask r.template.inputMap = true) :
    r.accepts (buildWord r.template addr input) = true := by
  unfold Row.accepts buildWord
  rw [beq_iff_eq]
  cases addr <;> cases input <;> simp only [placeBits_and_mask _ _ _ _ ha, placeBits_and_mask _ _ _ _ hi, hc]

end Sys2Proof
end

