-- ==== Sys2Proof/Laws/State.lean ====
section
/-! SUPPORT. One lemma per field per update of the state, each true by rfl. -/

namespace Sys2Proof.Machine

/-! ### State.emit -/

@[simp] theorem State.emit_cfg (s : State) (ev : Event) : (s.emit ev).cfg = s.cfg := rfl
@[simp] theorem State.emit_lvlSck (s : State) (ev : Event) : (s.emit ev).lvlSck = s.lvlSck := rfl
@[simp] theorem State.emit_lvlSdo (s : State) (ev : Event) : (s.emit ev).lvlSdo = s.lvlSdo := rfl
@[simp] theorem State.emit_lvlAux (s : State) (ev : Event) : (s.emit ev).lvlAux = s.lvlAux := rfl
@[simp] theorem State.emit_fsm (s : State) (ev : Event) : (s.emit ev).fsm = s.fsm := rfl
@[simp] theorem State.emit_resyncTries (s : State) (ev : Event) : (s.emit ev).resyncTries = s.resyncTries := rfl
@[simp] theorem State.emit_peOk (s : State) (ev : Event) : (s.emit ev).peOk = s.peOk := rfl
@[simp] theorem State.emit_extLast (s : State) (ev : Event) : (s.emit ev).extLast = s.extLast := rfl
@[simp] theorem State.emit_pollTries (s : State) (ev : Event) : (s.emit ev).pollTries = s.pollTries := rfl
@[simp] theorem State.emit_cursor (s : State) (ev : Event) : (s.emit ev).cursor = s.cursor := rfl
@[simp] theorem State.emit_pageVals (s : State) (ev : Event) : (s.emit ev).pageVals = s.pageVals := rfl
@[simp] theorem State.emit_trace (s : State) (ev : Event) : (s.emit ev).trace = s.trace ++ [ev] := rfl
@[simp] theorem State.emit_results (s : State) (ev : Event) : (s.emit ev).results = s.results := rfl
@[simp] theorem State.emit_pending (s : State) (ev : Event) : (s.emit ev).pending = s.pending := rfl
@[simp] theorem State.emit_profile (s : State) (ev : Event) : (s.emit ev).profile = s.profile := rfl
@[simp] theorem State.emit_sdiIn (s : State) (ev : Event) : (s.emit ev).sdiIn = s.sdiIn := rfl
@[simp] theorem State.emit_sdiDraws (s : State) (ev : Event) : (s.emit ev).sdiDraws = s.sdiDraws := rfl
@[simp] theorem State.emit_ioFaults (s : State) (ev : Event) : (s.emit ev).ioFaults = s.ioFaults := rfl
@[simp] theorem State.emit_ioDraws (s : State) (ev : Event) : (s.emit ev).ioDraws = s.ioDraws := rfl

/-! ### State.drawFault -/

@[simp] theorem State.drawFault_cfg (s : State) : (s.drawFault).cfg = s.cfg := rfl
@[simp] theorem State.drawFault_lvlSck (s : State) : (s.drawFault).lvlSck = s.lvlSck := rfl
@[simp] theorem State.drawFault_lvlSdo (s : State) : (s.drawFault).lvlSdo = s.lvlSdo := rfl
@[simp] theorem State.drawFault_lvlAux (s : State) : (s.drawFault).lvlAux = s.lvlAux := rfl
@[simp] theorem State.drawFault_fsm (s : State) : (s.drawFault).fsm = s.fsm := rfl
@[simp] theorem State.drawFault_resyncTries (s : State) : (s.drawFault).resyncTries = s.resyncTries := rfl
@[simp] theorem State.drawFault_peOk (s : State) : (s.drawFault).peOk = s.peOk := rfl
@[simp] theorem State.drawFault_extLast (s : State) : (s.drawFault).extLast = s.extLast := rfl
@[simp] theorem State.drawFault_pollTries (s : State) : (s.drawFault).pollTries = s.pollTries := rfl
@[simp] theorem State.drawFault_cursor (s : State) : (s.drawFault).cursor = s.cursor := rfl
@[simp] theorem State.drawFault_pageVals (s : State) : (s.drawFault).pageVals = s.pageVals := rfl
@[simp] theorem State.drawFault_trace (s : State) : (s.drawFault).trace = s.trace := rfl
@[simp] theorem State.drawFault_results (s : State) : (s.drawFault).results = s.results := rfl
@[simp] theorem State.drawFault_pending (s : State) : (s.drawFault).pending = s.pending := rfl
@[simp] theorem State.drawFault_profile (s : State) : (s.drawFault).profile = s.profile := rfl
@[simp] theorem State.drawFault_sdiIn (s : State) : (s.drawFault).sdiIn = s.sdiIn := rfl
@[simp] theorem State.drawFault_sdiDraws (s : State) : (s.drawFault).sdiDraws = s.sdiDraws := rfl
@[simp] theorem State.drawFault_ioFaults (s : State) : (s.drawFault).ioFaults = s.ioFaults.tail := rfl
@[simp] theorem State.drawFault_ioDraws (s : State) : (s.drawFault).ioDraws = s.ioDraws + 1 := rfl

/-! ### State.drawLevel -/

@[simp] theorem State.drawLevel_cfg (s : State) : (s.drawLevel).cfg = s.cfg := rfl
@[simp] theorem State.drawLevel_lvlSck (s : State) : (s.drawLevel).lvlSck = s.lvlSck := rfl
@[simp] theorem State.drawLevel_lvlSdo (s : State) : (s.drawLevel).lvlSdo = s.lvlSdo := rfl
@[simp] theorem State.drawLevel_lvlAux (s : State) : (s.drawLevel).lvlAux = s.lvlAux := rfl
@[simp] theorem State.drawLevel_fsm (s : State) : (s.drawLevel).fsm = s.fsm := rfl
@[simp] theorem State.drawLevel_resyncTries (s : State) : (s.drawLevel).resyncTries = s.resyncTries := rfl
@[simp] theorem State.drawLevel_peOk (s : State) : (s.drawLevel).peOk = s.peOk := rfl
@[simp] theorem State.drawLevel_extLast (s : State) : (s.drawLevel).extLast = s.extLast := rfl
@[simp] theorem State.drawLevel_pollTries (s : State) : (s.drawLevel).pollTries = s.pollTries := rfl
@[simp] theorem State.drawLevel_cursor (s : State) : (s.drawLevel).cursor = s.cursor := rfl
@[simp] theorem State.drawLevel_pageVals (s : State) : (s.drawLevel).pageVals = s.pageVals := rfl
@[simp] theorem State.drawLevel_trace (s : State) : (s.drawLevel).trace = s.trace := rfl
@[simp] theorem State.drawLevel_results (s : State) : (s.drawLevel).results = s.results := rfl
@[simp] theorem State.drawLevel_pending (s : State) : (s.drawLevel).pending = s.pending := rfl
@[simp] theorem State.drawLevel_profile (s : State) : (s.drawLevel).profile = s.profile := rfl
@[simp] theorem State.drawLevel_sdiIn (s : State) : (s.drawLevel).sdiIn = s.sdiIn.tail := rfl
@[simp] theorem State.drawLevel_sdiDraws (s : State) : (s.drawLevel).sdiDraws = s.sdiDraws + 1 := rfl
@[simp] theorem State.drawLevel_ioFaults (s : State) : (s.drawLevel).ioFaults = s.ioFaults := rfl
@[simp] theorem State.drawLevel_ioDraws (s : State) : (s.drawLevel).ioDraws = s.ioDraws := rfl

/-! ### State.clearHandshake -/

@[simp] theorem State.clearHandshake_cfg (s : State) : (s.clearHandshake).cfg = s.cfg := rfl
@[simp] theorem State.clearHandshake_lvlSck (s : State) : (s.clearHandshake).lvlSck = s.lvlSck := rfl
@[simp] theorem State.clearHandshake_lvlSdo (s : State) : (s.clearHandshake).lvlSdo = s.lvlSdo := rfl
@[simp] theorem State.clearHandshake_lvlAux (s : State) : (s.clearHandshake).lvlAux = s.lvlAux := rfl
@[simp] theorem State.clearHandshake_fsm (s : State) : (s.clearHandshake).fsm = s.fsm := rfl
@[simp] theorem State.clearHandshake_resyncTries (s : State) : (s.clearHandshake).resyncTries = 0 := rfl
@[simp] theorem State.clearHandshake_peOk (s : State) : (s.clearHandshake).peOk = false := rfl
@[simp] theorem State.clearHandshake_extLast (s : State) : (s.clearHandshake).extLast = s.extLast := rfl
@[simp] theorem State.clearHandshake_pollTries (s : State) : (s.clearHandshake).pollTries = s.pollTries := rfl
@[simp] theorem State.clearHandshake_cursor (s : State) : (s.clearHandshake).cursor = s.cursor := rfl
@[simp] theorem State.clearHandshake_pageVals (s : State) : (s.clearHandshake).pageVals = s.pageVals := rfl
@[simp] theorem State.clearHandshake_trace (s : State) : (s.clearHandshake).trace = s.trace := rfl
@[simp] theorem State.clearHandshake_results (s : State) : (s.clearHandshake).results = s.results := rfl
@[simp] theorem State.clearHandshake_pending (s : State) : (s.clearHandshake).pending = s.pending := rfl
@[simp] theorem State.clearHandshake_profile (s : State) : (s.clearHandshake).profile = s.profile := rfl
@[simp] theorem State.clearHandshake_sdiIn (s : State) : (s.clearHandshake).sdiIn = s.sdiIn := rfl
@[simp] theorem State.clearHandshake_sdiDraws (s : State) : (s.clearHandshake).sdiDraws = s.sdiDraws := rfl
@[simp] theorem State.clearHandshake_ioFaults (s : State) : (s.clearHandshake).ioFaults = s.ioFaults := rfl
@[simp] theorem State.clearHandshake_ioDraws (s : State) : (s.clearHandshake).ioDraws = s.ioDraws := rfl

/-! ### State.handshakeOk -/

@[simp] theorem State.handshakeOk_cfg (s : State) : (s.handshakeOk).cfg = s.cfg := rfl
@[simp] theorem State.handshakeOk_lvlSck (s : State) : (s.handshakeOk).lvlSck = s.lvlSck := rfl
@[simp] theorem State.handshakeOk_lvlSdo (s : State) : (s.handshakeOk).lvlSdo = s.lvlSdo := rfl
@[simp] theorem State.handshakeOk_lvlAux (s : State) : (s.handshakeOk).lvlAux = s.lvlAux := rfl
@[simp] theorem State.handshakeOk_fsm (s : State) : (s.handshakeOk).fsm = .enabled := rfl
@[simp] theorem State.handshakeOk_resyncTries (s : State) : (s.handshakeOk).resyncTries = s.resyncTries := rfl
@[simp] theorem State.handshakeOk_peOk (s : State) : (s.handshakeOk).peOk = true := rfl
@[simp] theorem State.handshakeOk_extLast (s : State) : (s.handshakeOk).extLast = s.extLast := rfl
@[simp] theorem State.handshakeOk_pollTries (s : State) : (s.handshakeOk).pollTries = s.pollTries := rfl
@[simp] theorem State.handshakeOk_cursor (s : State) : (s.handshakeOk).cursor = s.cursor := rfl
@[simp] theorem State.handshakeOk_pageVals (s : State) : (s.handshakeOk).pageVals = s.pageVals := rfl
@[simp] theorem State.handshakeOk_trace (s : State) : (s.handshakeOk).trace = s.trace := rfl
@[simp] theorem State.handshakeOk_results (s : State) : (s.handshakeOk).results = s.results := rfl
@[simp] theorem State.handshakeOk_pending (s : State) : (s.handshakeOk).pending = s.pending := rfl
@[simp] theorem State.handshakeOk_profile (s : State) : (s.handshakeOk).profile = s.profile := rfl
@[simp] theorem State.handshakeOk_sdiIn (s : State) : (s.handshakeOk).sdiIn = s.sdiIn := rfl
@[simp] theorem State.handshakeOk_sdiDraws (s : State) : (s.handshakeOk).sdiDraws = s.sdiDraws := rfl
@[simp] theorem State.handshakeOk_ioFaults (s : State) : (s.handshakeOk).ioFaults = s.ioFaults := rfl
@[simp] theorem State.handshakeOk_ioDraws (s : State) : (s.handshakeOk).ioDraws = s.ioDraws := rfl

/-! ### State.handshakeFailed -/

@[simp] theorem State.handshakeFailed_cfg (s : State) : (s.handshakeFailed).cfg = s.cfg := rfl
@[simp] theorem State.handshakeFailed_lvlSck (s : State) : (s.handshakeFailed).lvlSck = s.lvlSck := rfl
@[simp] theorem State.handshakeFailed_lvlSdo (s : State) : (s.handshakeFailed).lvlSdo = s.lvlSdo := rfl
@[simp] theorem State.handshakeFailed_lvlAux (s : State) : (s.handshakeFailed).lvlAux = s.lvlAux := rfl
@[simp] theorem State.handshakeFailed_fsm (s : State) : (s.handshakeFailed).fsm = .enabled := rfl
@[simp] theorem State.handshakeFailed_resyncTries (s : State) : (s.handshakeFailed).resyncTries = s.resyncTries := rfl
@[simp] theorem State.handshakeFailed_peOk (s : State) : (s.handshakeFailed).peOk = false := rfl
@[simp] theorem State.handshakeFailed_extLast (s : State) : (s.handshakeFailed).extLast = s.extLast := rfl
@[simp] theorem State.handshakeFailed_pollTries (s : State) : (s.handshakeFailed).pollTries = s.pollTries := rfl
@[simp] theorem State.handshakeFailed_cursor (s : State) : (s.handshakeFailed).cursor = s.cursor := rfl
@[simp] theorem State.handshakeFailed_pageVals (s : State) : (s.handshakeFailed).pageVals = s.pageVals := rfl
@[simp] theorem State.handshakeFailed_trace (s : State) : (s.handshakeFailed).trace = s.trace := rfl
@[simp] theorem State.handshakeFailed_results (s : State) : (s.handshakeFailed).results = s.results := rfl
@[simp] theorem State.handshakeFailed_pending (s : State) : (s.handshakeFailed).pending = s.pending := rfl
@[simp] theorem State.handshakeFailed_profile (s : State) : (s.handshakeFailed).profile = s.profile := rfl
@[simp] theorem State.handshakeFailed_sdiIn (s : State) : (s.handshakeFailed).sdiIn = s.sdiIn := rfl
@[simp] theorem State.handshakeFailed_sdiDraws (s : State) : (s.handshakeFailed).sdiDraws = s.sdiDraws := rfl
@[simp] theorem State.handshakeFailed_ioFaults (s : State) : (s.handshakeFailed).ioFaults = s.ioFaults := rfl
@[simp] theorem State.handshakeFailed_ioDraws (s : State) : (s.handshakeFailed).ioDraws = s.ioDraws := rfl

/-! ### State.countResync -/

@[simp] theorem State.countResync_cfg (s : State) : (s.countResync).cfg = s.cfg := rfl
@[simp] theorem State.countResync_lvlSck (s : State) : (s.countResync).lvlSck = s.lvlSck := rfl
@[simp] theorem State.countResync_lvlSdo (s : State) : (s.countResync).lvlSdo = s.lvlSdo := rfl
@[simp] theorem State.countResync_lvlAux (s : State) : (s.countResync).lvlAux = s.lvlAux := rfl
@[simp] theorem State.countResync_fsm (s : State) : (s.countResync).fsm = s.fsm := rfl
@[simp] theorem State.countResync_resyncTries (s : State) : (s.countResync).resyncTries = s.resyncTries + 1 := rfl
@[simp] theorem State.countResync_peOk (s : State) : (s.countResync).peOk = s.peOk := rfl
@[simp] theorem State.countResync_extLast (s : State) : (s.countResync).extLast = s.extLast := rfl
@[simp] theorem State.countResync_pollTries (s : State) : (s.countResync).pollTries = s.pollTries := rfl
@[simp] theorem State.countResync_cursor (s : State) : (s.countResync).cursor = s.cursor := rfl
@[simp] theorem State.countResync_pageVals (s : State) : (s.countResync).pageVals = s.pageVals := rfl
@[simp] theorem State.countResync_trace (s : State) : (s.countResync).trace = s.trace := rfl
@[simp] theorem State.countResync_results (s : State) : (s.countResync).results = s.results := rfl
@[simp] theorem State.countResync_pending (s : State) : (s.countResync).pending = s.pending := rfl
@[simp] theorem State.countResync_profile (s : State) : (s.countResync).profile = s.profile := rfl
@[simp] theorem State.countResync_sdiIn (s : State) : (s.countResync).sdiIn = s.sdiIn := rfl
@[simp] theorem State.countResync_sdiDraws (s : State) : (s.countResync).sdiDraws = s.sdiDraws := rfl
@[simp] theorem State.countResync_ioFaults (s : State) : (s.countResync).ioFaults = s.ioFaults := rfl
@[simp] theorem State.countResync_ioDraws (s : State) : (s.countResync).ioDraws = s.ioDraws := rfl

/-! ### State.clearPoll -/

@[simp] theorem State.clearPoll_cfg (s : State) : (s.clearPoll).cfg = s.cfg := rfl
@[simp] theorem State.clearPoll_lvlSck (s : State) : (s.clearPoll).lvlSck = s.lvlSck := rfl
@[simp] theorem State.clearPoll_lvlSdo (s : State) : (s.clearPoll).lvlSdo = s.lvlSdo := rfl
@[simp] theorem State.clearPoll_lvlAux (s : State) : (s.clearPoll).lvlAux = s.lvlAux := rfl
@[simp] theorem State.clearPoll_fsm (s : State) : (s.clearPoll).fsm = s.fsm := rfl
@[simp] theorem State.clearPoll_resyncTries (s : State) : (s.clearPoll).resyncTries = s.resyncTries := rfl
@[simp] theorem State.clearPoll_peOk (s : State) : (s.clearPoll).peOk = s.peOk := rfl
@[simp] theorem State.clearPoll_extLast (s : State) : (s.clearPoll).extLast = s.extLast := rfl
@[simp] theorem State.clearPoll_pollTries (s : State) : (s.clearPoll).pollTries = 0 := rfl
@[simp] theorem State.clearPoll_cursor (s : State) : (s.clearPoll).cursor = s.cursor := rfl
@[simp] theorem State.clearPoll_pageVals (s : State) : (s.clearPoll).pageVals = s.pageVals := rfl
@[simp] theorem State.clearPoll_trace (s : State) : (s.clearPoll).trace = s.trace := rfl
@[simp] theorem State.clearPoll_results (s : State) : (s.clearPoll).results = s.results := rfl
@[simp] theorem State.clearPoll_pending (s : State) : (s.clearPoll).pending = s.pending := rfl
@[simp] theorem State.clearPoll_profile (s : State) : (s.clearPoll).profile = s.profile := rfl
@[simp] theorem State.clearPoll_sdiIn (s : State) : (s.clearPoll).sdiIn = s.sdiIn := rfl
@[simp] theorem State.clearPoll_sdiDraws (s : State) : (s.clearPoll).sdiDraws = s.sdiDraws := rfl
@[simp] theorem State.clearPoll_ioFaults (s : State) : (s.clearPoll).ioFaults = s.ioFaults := rfl
@[simp] theorem State.clearPoll_ioDraws (s : State) : (s.clearPoll).ioDraws = s.ioDraws := rfl

/-! ### State.countPoll -/

@[simp] theorem State.countPoll_cfg (s : State) : (s.countPoll).cfg = s.cfg := rfl
@[simp] theorem State.countPoll_lvlSck (s : State) : (s.countPoll).lvlSck = s.lvlSck := rfl
@[simp] theorem State.countPoll_lvlSdo (s : State) : (s.countPoll).lvlSdo = s.lvlSdo := rfl
@[simp] theorem State.countPoll_lvlAux (s : State) : (s.countPoll).lvlAux = s.lvlAux := rfl
@[simp] theorem State.countPoll_fsm (s : State) : (s.countPoll).fsm = s.fsm := rfl
@[simp] theorem State.countPoll_resyncTries (s : State) : (s.countPoll).resyncTries = s.resyncTries := rfl
@[simp] theorem State.countPoll_peOk (s : State) : (s.countPoll).peOk = s.peOk := rfl
@[simp] theorem State.countPoll_extLast (s : State) : (s.countPoll).extLast = s.extLast := rfl
@[simp] theorem State.countPoll_pollTries (s : State) : (s.countPoll).pollTries = s.pollTries + 1 := rfl
@[simp] theorem State.countPoll_cursor (s : State) : (s.countPoll).cursor = s.cursor := rfl
@[simp] theorem State.countPoll_pageVals (s : State) : (s.countPoll).pageVals = s.pageVals := rfl
@[simp] theorem State.countPoll_trace (s : State) : (s.countPoll).trace = s.trace := rfl
@[simp] theorem State.countPoll_results (s : State) : (s.countPoll).results = s.results := rfl
@[simp] theorem State.countPoll_pending (s : State) : (s.countPoll).pending = s.pending := rfl
@[simp] theorem State.countPoll_profile (s : State) : (s.countPoll).profile = s.profile := rfl
@[simp] theorem State.countPoll_sdiIn (s : State) : (s.countPoll).sdiIn = s.sdiIn := rfl
@[simp] theorem State.countPoll_sdiDraws (s : State) : (s.countPoll).sdiDraws = s.sdiDraws := rfl
@[simp] theorem State.countPoll_ioFaults (s : State) : (s.countPoll).ioFaults = s.ioFaults := rfl
@[simp] theorem State.countPoll_ioDraws (s : State) : (s.countPoll).ioDraws = s.ioDraws := rfl

/-! ### State.withPending -/

@[simp] theorem State.withPending_cfg (s : State) (rest : List Request) : (s.withPending rest).cfg = s.cfg := rfl
@[simp] theorem State.withPending_lvlSck (s : State) (rest : List Request) : (s.withPending rest).lvlSck = s.lvlSck := rfl
@[simp] theorem State.withPending_lvlSdo (s : State) (rest : List Request) : (s.withPending rest).lvlSdo = s.lvlSdo := rfl
@[simp] theorem State.withPending_lvlAux (s : State) (rest : List Request) : (s.withPending rest).lvlAux = s.lvlAux := rfl
@[simp] theorem State.withPending_fsm (s : State) (rest : List Request) : (s.withPending rest).fsm = s.fsm := rfl
@[simp] theorem State.withPending_resyncTries (s : State) (rest : List Request) : (s.withPending rest).resyncTries = s.resyncTries := rfl
@[simp] theorem State.withPending_peOk (s : State) (rest : List Request) : (s.withPending rest).peOk = s.peOk := rfl
@[simp] theorem State.withPending_extLast (s : State) (rest : List Request) : (s.withPending rest).extLast = s.extLast := rfl
@[simp] theorem State.withPending_pollTries (s : State) (rest : List Request) : (s.withPending rest).pollTries = s.pollTries := rfl
@[simp] theorem State.withPending_cursor (s : State) (rest : List Request) : (s.withPending rest).cursor = s.cursor := rfl
@[simp] theorem State.withPending_pageVals (s : State) (rest : List Request) : (s.withPending rest).pageVals = s.pageVals := rfl
@[simp] theorem State.withPending_trace (s : State) (rest : List Request) : (s.withPending rest).trace = s.trace := rfl
@[simp] theorem State.withPending_results (s : State) (rest : List Request) : (s.withPending rest).results = s.results := rfl
@[simp] theorem State.withPending_pending (s : State) (rest : List Request) : (s.withPending rest).pending = rest := rfl
@[simp] theorem State.withPending_profile (s : State) (rest : List Request) : (s.withPending rest).profile = s.profile := rfl
@[simp] theorem State.withPending_sdiIn (s : State) (rest : List Request) : (s.withPending rest).sdiIn = s.sdiIn := rfl
@[simp] theorem State.withPending_sdiDraws (s : State) (rest : List Request) : (s.withPending rest).sdiDraws = s.sdiDraws := rfl
@[simp] theorem State.withPending_ioFaults (s : State) (rest : List Request) : (s.withPending rest).ioFaults = s.ioFaults := rfl
@[simp] theorem State.withPending_ioDraws (s : State) (rest : List Request) : (s.withPending rest).ioDraws = s.ioDraws := rfl

/-! ### returnResult -/

@[simp] theorem returnResult_cfg (r : CallResult) (s : State) : (returnResult r s).cfg = s.cfg := rfl
@[simp] theorem returnResult_lvlSck (r : CallResult) (s : State) : (returnResult r s).lvlSck = s.lvlSck := rfl
@[simp] theorem returnResult_lvlSdo (r : CallResult) (s : State) : (returnResult r s).lvlSdo = s.lvlSdo := rfl
@[simp] theorem returnResult_lvlAux (r : CallResult) (s : State) : (returnResult r s).lvlAux = s.lvlAux := rfl
@[simp] theorem returnResult_fsm (r : CallResult) (s : State) : (returnResult r s).fsm = s.fsm := rfl
@[simp] theorem returnResult_resyncTries (r : CallResult) (s : State) : (returnResult r s).resyncTries = s.resyncTries := rfl
@[simp] theorem returnResult_peOk (r : CallResult) (s : State) : (returnResult r s).peOk = s.peOk := rfl
@[simp] theorem returnResult_extLast (r : CallResult) (s : State) : (returnResult r s).extLast = s.extLast := rfl
@[simp] theorem returnResult_pollTries (r : CallResult) (s : State) : (returnResult r s).pollTries = s.pollTries := rfl
@[simp] theorem returnResult_cursor (r : CallResult) (s : State) : (returnResult r s).cursor = s.cursor := rfl
@[simp] theorem returnResult_pageVals (r : CallResult) (s : State) : (returnResult r s).pageVals = s.pageVals := rfl
@[simp] theorem returnResult_trace (r : CallResult) (s : State) : (returnResult r s).trace = s.trace := rfl
@[simp] theorem returnResult_results (r : CallResult) (s : State) : (returnResult r s).results = s.results ++ [r] := rfl
@[simp] theorem returnResult_pending (r : CallResult) (s : State) : (returnResult r s).pending = s.pending := rfl
@[simp] theorem returnResult_profile (r : CallResult) (s : State) : (returnResult r s).profile = s.profile := rfl
@[simp] theorem returnResult_sdiIn (r : CallResult) (s : State) : (returnResult r s).sdiIn = s.sdiIn := rfl
@[simp] theorem returnResult_sdiDraws (r : CallResult) (s : State) : (returnResult r s).sdiDraws = s.sdiDraws := rfl
@[simp] theorem returnResult_ioFaults (r : CallResult) (s : State) : (returnResult r s).ioFaults = s.ioFaults := rfl
@[simp] theorem returnResult_ioDraws (r : CallResult) (s : State) : (returnResult r s).ioDraws = s.ioDraws := rfl

/-! ### raiseError -/

@[simp] theorem raiseError_cfg (f : Fsm) (e : Err) (s : State) : (raiseError f e s).cfg = s.cfg := rfl
@[simp] theorem raiseError_lvlSck (f : Fsm) (e : Err) (s : State) : (raiseError f e s).lvlSck = s.lvlSck := rfl
@[simp] theorem raiseError_lvlSdo (f : Fsm) (e : Err) (s : State) : (raiseError f e s).lvlSdo = s.lvlSdo := rfl
@[simp] theorem raiseError_lvlAux (f : Fsm) (e : Err) (s : State) : (raiseError f e s).lvlAux = s.lvlAux := rfl
@[simp] theorem raiseError_fsm (f : Fsm) (e : Err) (s : State) : (raiseError f e s).fsm = fsmAfterError f e := rfl
@[simp] theorem raiseError_resyncTries (f : Fsm) (e : Err) (s : State) : (raiseError f e s).resyncTries = s.resyncTries := rfl
@[simp] theorem raiseError_peOk (f : Fsm) (e : Err) (s : State) : (raiseError f e s).peOk = s.peOk := rfl
@[simp] theorem raiseError_extLast (f : Fsm) (e : Err) (s : State) : (raiseError f e s).extLast = s.extLast := rfl
@[simp] theorem raiseError_pollTries (f : Fsm) (e : Err) (s : State) : (raiseError f e s).pollTries = s.pollTries := rfl
@[simp] theorem raiseError_cursor (f : Fsm) (e : Err) (s : State) : (raiseError f e s).cursor = s.cursor := rfl
@[simp] theorem raiseError_pageVals (f : Fsm) (e : Err) (s : State) : (raiseError f e s).pageVals = pageValsAfterError s.pageVals e := rfl
@[simp] theorem raiseError_trace (f : Fsm) (e : Err) (s : State) : (raiseError f e s).trace = s.trace := rfl
@[simp] theorem raiseError_results (f : Fsm) (e : Err) (s : State) : (raiseError f e s).results = s.results ++ [.error e] := rfl
@[simp] theorem raiseError_pending (f : Fsm) (e : Err) (s : State) : (raiseError f e s).pending = s.pending := rfl
@[simp] theorem raiseError_profile (f : Fsm) (e : Err) (s : State) : (raiseError f e s).profile = s.profile := rfl
@[simp] theorem raiseError_sdiIn (f : Fsm) (e : Err) (s : State) : (raiseError f e s).sdiIn = s.sdiIn := rfl
@[simp] theorem raiseError_sdiDraws (f : Fsm) (e : Err) (s : State) : (raiseError f e s).sdiDraws = s.sdiDraws := rfl
@[simp] theorem raiseError_ioFaults (f : Fsm) (e : Err) (s : State) : (raiseError f e s).ioFaults = s.ioFaults := rfl
@[simp] theorem raiseError_ioDraws (f : Fsm) (e : Err) (s : State) : (raiseError f e s).ioDraws = s.ioDraws := rfl

/-! ### State.exchanged -/

@[simp] theorem State.exchanged_cfg (s : State) (n g : Nat) (v : Bool) (evs : List Event) : (s.exchanged n g v evs).cfg = s.cfg := rfl
@[simp] theorem State.exchanged_lvlSck (s : State) (n g : Nat) (v : Bool) (evs : List Event) : (s.exchanged n g v evs).lvlSck = s.lvlSck := rfl
@[simp] theorem State.exchanged_lvlSdo (s : State) (n g : Nat) (v : Bool) (evs : List Event) : (s.exchanged n g v evs).lvlSdo = v := rfl
@[simp] theorem State.exchanged_lvlAux (s : State) (n g : Nat) (v : Bool) (evs : List Event) : (s.exchanged n g v evs).lvlAux = s.lvlAux := rfl
@[simp] theorem State.exchanged_fsm (s : State) (n g : Nat) (v : Bool) (evs : List Event) : (s.exchanged n g v evs).fsm = s.fsm := rfl
@[simp] theorem State.exchanged_resyncTries (s : State) (n g : Nat) (v : Bool) (evs : List Event) : (s.exchanged n g v evs).resyncTries = s.resyncTries := rfl
@[simp] theorem State.exchanged_peOk (s : State) (n g : Nat) (v : Bool) (evs : List Event) : (s.exchanged n g v evs).peOk = s.peOk := rfl
@[simp] theorem State.exchanged_extLast (s : State) (n g : Nat) (v : Bool) (evs : List Event) : (s.exchanged n g v evs).extLast = s.extLast := rfl
@[simp] theorem State.exchanged_pollTries (s : State) (n g : Nat) (v : Bool) (evs : List Event) : (s.exchanged n g v evs).pollTries = s.pollTries := rfl
@[simp] theorem State.exchanged_cursor (s : State) (n g : Nat) (v : Bool) (evs : List Event) : (s.exchanged n g v evs).cursor = s.cursor := rfl
@[simp] theorem State.exchanged_pageVals (s : State) (n g : Nat) (v : Bool) (evs : List Event) : (s.exchanged n g v evs).pageVals = s.pageVals := rfl
@[simp] theorem State.exchanged_trace (s : State) (n g : Nat) (v : Bool) (evs : List Event) : (s.exchanged n g v evs).trace = s.trace ++ evs := rfl
@[simp] theorem State.exchanged_results (s : State) (n g : Nat) (v : Bool) (evs : List Event) : (s.exchanged n g v evs).results = s.results := rfl
@[simp] theorem State.exchanged_pending (s : State) (n g : Nat) (v : Bool) (evs : List Event) : (s.exchanged n g v evs).pending = s.pending := rfl
@[simp] theorem State.exchanged_profile (s : State) (n g : Nat) (v : Bool) (evs : List Event) : (s.exchanged n g v evs).profile = s.profile := rfl
@[simp] theorem State.exchanged_sdiIn (s : State) (n g : Nat) (v : Bool) (evs : List Event) : (s.exchanged n g v evs).sdiIn = s.sdiIn.drop g := rfl
@[simp] theorem State.exchanged_sdiDraws (s : State) (n g : Nat) (v : Bool) (evs : List Event) : (s.exchanged n g v evs).sdiDraws = s.sdiDraws + g := rfl
@[simp] theorem State.exchanged_ioFaults (s : State) (n g : Nat) (v : Bool) (evs : List Event) : (s.exchanged n g v evs).ioFaults = s.ioFaults.drop n := rfl
@[simp] theorem State.exchanged_ioDraws (s : State) (n g : Nat) (v : Bool) (evs : List Event) : (s.exchanged n g v evs).ioDraws = s.ioDraws + n := rfl

/-! ### State.setLvl -/

@[simp] theorem State.setLvl_cfg (s : State) (p : Pin) (v : Bool) : (s.setLvl p v).cfg = s.cfg := by cases p <;> rfl
@[simp] theorem State.setLvl_fsm (s : State) (p : Pin) (v : Bool) : (s.setLvl p v).fsm = s.fsm := by cases p <;> rfl
@[simp] theorem State.setLvl_resyncTries (s : State) (p : Pin) (v : Bool) : (s.setLvl p v).resyncTries = s.resyncTries := by cases p <;> rfl
@[simp] theorem State.setLvl_peOk (s : State) (p : Pin) (v : Bool) : (s.setLvl p v).peOk = s.peOk := by cases p <;> rfl
@[simp] theorem State.setLvl_extLast (s : State) (p : Pin) (v : Bool) : (s.setLvl p v).extLast = s.extLast := by cases p <;> rfl
@[simp] theorem State.setLvl_pollTries (s : State) (p : Pin) (v : Bool) : (s.setLvl p v).pollTries = s.pollTries := by cases p <;> rfl
@[simp] theorem State.setLvl_cursor (s : State) (p : Pin) (v : Bool) : (s.setLvl p v).cursor = s.cursor := by cases p <;> rfl
@[simp] theorem State.setLvl_pageVals (s : State) (p : Pin) (v : Bool) : (s.setLvl p v).pageVals = s.pageVals := by cases p <;> rfl
@[simp] theorem State.setLvl_trace (s : State) (p : Pin) (v : Bool) : (s.setLvl p v).trace = s.trace := by cases p <;> rfl
@[simp] theorem State.setLvl_results (s : State) (p : Pin) (v : Bool) : (s.setLvl p v).results = s.results := by cases p <;> rfl
@[simp] theorem State.setLvl_pending (s : State) (p : Pin) (v : Bool) : (s.setLvl p v).pending = s.pending := by cases p <;> rfl
@[simp] theorem State.setLvl_profile (s : State) (p : Pin) (v : Bool) : (s.setLvl p v).profile = s.profile := by cases p <;> rfl
@[simp] theorem State.setLvl_sdiIn (s : State) (p : Pin) (v : Bool) : (s.setLvl p v).sdiIn = s.sdiIn := by cases p <;> rfl
@[simp] theorem State.setLvl_sdiDraws (s : State) (p : Pin) (v : Bool) : (s.setLvl p v).sdiDraws = s.sdiDraws := by cases p <;> rfl
@[simp] theorem State.setLvl_ioFaults (s : State) (p : Pin) (v : Bool) : (s.setLvl p v).ioFaults = s.ioFaults := by cases p <;> rfl
@[simp] theorem State.setLvl_ioDraws (s : State) (p : Pin) (v : Bool) : (s.setLvl p v).ioDraws = s.ioDraws := by cases p <;> rfl

@[simp] theorem State.setLvl_sck (s : State) (v : Bool) : s.setLvl .sck v = { s with lvlSck := v } := rfl
@[simp] theorem State.setLvl_sdo (s : State) (v : Bool) : s.setLvl .sdo v = { s with lvlSdo := v } := rfl

end Sys2Proof.Machine
end

