-- ==== Sys2Proof/Laws/Memory.lean ====
section
/-! SUPPORT. `page_vals` as memory: every operation keeps the canonical form. -/

namespace Sys2Proof.Machine

theorem Memory.wf_tail {c : Host.Cell} {m : Memory} (h : Memory.wf (c :: m) = true) : Memory.wf m = true := by
  cases m with
  | nil => rfl
  | cons d rest =>
    simp only [Memory.wf, Bool.and_eq_true, decide_eq_true_eq] at h
    exact h.2

/-- In canonical form the first address is below every other. -/
theorem Memory.wf_cons_iff {c : Host.Cell} {m : Memory} :
    Memory.wf (c :: m) = true ↔ Memory.wf m = true ∧ ∀ d ∈ m, c.1 < d.1 := by
  induction m generalizing c with
  | nil => simp [Memory.wf]
  | cons d rest ih =>
    have hd := @ih d
    simp only [Memory.wf, Bool.and_eq_true, decide_eq_true_eq, List.mem_cons, forall_eq_or_imp]
    constructor
    · rintro ⟨h1, h2⟩
      exact ⟨h2, h1, fun x hx => h1.trans ((hd.1 h2).2 x hx)⟩
    · rintro ⟨h1, h2, -⟩
      exact ⟨h2, h1⟩

/-- Storing lists no address but the old ones and the one stored to. -/
theorem Memory.mem_store {m : Memory} {a : Nat} {b : Byte} {d : Host.Cell} (h : d ∈ Memory.store m a b) :
    d = (a, b) ∨ d ∈ m := by
  induction m with
  | nil => simpa [Memory.store] using h
  | cons c rest ih =>
    simp only [Memory.store] at h
    split at h
    · simpa using h
    · split at h
      · rcases List.mem_cons.1 h with h | h
        · exact .inl h
        · exact .inr (List.mem_cons_of_mem _ h)
      · rcases List.mem_cons.1 h with h | h
        · exact .inr (h ▸ List.mem_cons_self)
        · exact (ih h).imp id (List.mem_cons_of_mem _)

/-- The one writing operation keeps the canonical form. -/
theorem Memory.wf_store {m : Memory} (a : Nat) (b : Byte) (h : Memory.wf m = true) :
    Memory.wf (Memory.store m a b) = true := by
  induction m with
  | nil => rfl
  | cons c rest ih =>
    obtain ⟨hr, hlt⟩ := Memory.wf_cons_iff.1 h
    simp only [Memory.store]
    split
    · next hac =>
      refine Memory.wf_cons_iff.2 ⟨h, fun d hd => ?_⟩
      rcases List.mem_cons.1 hd with hd | hd
      · exact hd ▸ hac
      · exact hac.trans (hlt d hd)
    · split
      · next _ hac => exact Memory.wf_cons_iff.2 ⟨hr, fun d hd => hac ▸ hlt d hd⟩
      · next hlt' hne =>
        refine Memory.wf_cons_iff.2 ⟨ih hr, fun d hd => ?_⟩
        rcases Memory.mem_store hd with hd | hd
        · subst hd; exact lt_of_le_of_ne (not_lt.1 hlt') (Ne.symm hne)
        · exact hlt d hd

/-- The empty map, which every flush and every session starts from, is canonical. -/
theorem Memory.wf_nil : Memory.wf [] = true := rfl

theorem State.reset_pageVals_wf : Memory.wf State.reset.pageVals = true := rfl

/-- An error leaves the map canonical. -/
theorem Memory.wf_afterError {m : Memory} (e : Err) (h : Memory.wf m = true) :
    Memory.wf (pageValsAfterError m e) = true := by
  cases e <;> first | exact h | rfl

end Sys2Proof.Machine
end

