-- ==== Sys2Proof/Laws/Ops.lean ====
section
/-! SUPPORT. What each shared operation can do, said once: the two outcomes of a transport call, the predicates that a
part of a call leaves true whichever way it ends, and what the wire exchanges, the host calls' parts and the ends of a
call change. -/

namespace Sys2Proof.Machine

/-! ### Run -/

@[simp] theorem Run.bind_done {α β : Type} (a : α) (s : State) (k : α → State → Run β) :
    (Run.done a s).bind k = k a s := rfl

@[simp] theorem Run.bind_raised {α β : Type} (e : Err) (s : State) (k : α → State → Run β) :
    (Run.raised e s : Run α).bind k = .raised e s := rfl

theorem Run.bind_assoc {α β γ : Type} (r : Run α) (k : α → State → Run β) (l : β → State → Run γ) :
    (r.bind k).bind l = r.bind fun a s => (k a s).bind l := by cases r <;> rfl

/-- A bind is done exactly where its first part is done and its second part, from there, is done. -/
theorem Run.bind_eq_done {α β : Type} {r : Run α} {k : α → State → Run β} {b : β} {t : State} :
    r.bind k = .done b t ↔ ∃ a s, r = .done a s ∧ k a s = .done b t := by
  cases r <;> simp [Run.bind]

/-- A bind raises where its first part raises, or its second part from where the first is done. -/
theorem Run.bind_eq_raised {α β : Type} {r : Run α} {k : α → State → Run β} {e : Err} {t : State} :
    r.bind k = .raised e t ↔ r = .raised e t ∨ ∃ a s, r = .done a s ∧ k a s = .raised e t := by
  cases r <;> simp [Run.bind]

/-- `P` holds of the state a part of a call leaves, whichever way it ends. -/
def Run.Leaves {α : Type} (P : State → Prop) : Run α → Prop
  | .done _ s => P s
  | .raised _ s => P s

@[simp] theorem Run.leaves_done {α : Type} {P : State → Prop} {a : α} {s : State} :
    (Run.done a s).Leaves P ↔ P s := Iff.rfl

@[simp] theorem Run.leaves_raised {α : Type} {P : State → Prop} {e : Err} {s : State} :
    (Run.raised e s : Run α).Leaves P ↔ P s := Iff.rfl

theorem Run.Leaves.bind {α β : Type} {P : State → Prop} {r : Run α} {k : α → State → Run β} (h : r.Leaves P)
    (hk : ∀ a s, P s → (k a s).Leaves P) : (r.bind k).Leaves P := by
  cases r with
  | done a s => exact hk a s h
  | raised e s => exact h

theorem Run.Leaves.mono {α : Type} {P Q : State → Prop} {r : Run α} (h : r.Leaves P) (hpq : ∀ s, P s → Q s) :
    r.Leaves Q := by
  cases r <;> exact hpq _ h

/-! ### Transport calls -/

theorem transportCall_ok {α : Type} {s : State} {effect : State → Run α} (h : s.nextFault = none) :
    transportCall s effect = effect s.drawFault := by simp [transportCall, h]

theorem transportCall_fails {α : Type} {s : State} {effect : State → Run α} {e : Nat} (h : s.nextFault = some e) :
    transportCall s effect = .raised (.transport e) s.drawFault := by simp [transportCall, h]

/-- A transport call leaves `P` true if making the draw does, and its effect then does. -/
theorem transportCall_leaves {α : Type} {P : State → Prop} {s : State} {effect : State → Run α}
    (h : P s.drawFault) (he : P s.drawFault → (effect s.drawFault).Leaves P) : (transportCall s effect).Leaves P := by
  unfold transportCall
  split
  · exact h
  · exact he h

/-! ### The environment's draws, counted from a state -/

theorem State.nextFault_eq (s : State) : s.nextFault = s.faultAt 0 := by
  cases h : s.ioFaults <;> simp [State.nextFault, State.faultAt, h]

theorem State.faultAt_drawFault (s : State) (n : Nat) : s.drawFault.faultAt n = s.faultAt (n + 1) := by
  have e : s.ioDraws + 1 + n = s.ioDraws + (n + 1) := by omega
  simp [State.faultAt, List.getElem?_tail, e]

theorem State.nextFault_of_noFault {s : State} {n : Nat} (h : s.NoFault (n + 1)) : s.nextFault = none := by
  rw [State.nextFault_eq]; exact h 0 (by omega)

theorem State.noFault_drawFault {s : State} {n : Nat} (h : s.NoFault (n + 1)) : s.drawFault.NoFault n := by
  intro k hk
  rw [State.faultAt_drawFault]
  exact h _ (by omega)

@[simp] theorem State.faultAt_exchanged (s : State) (n g k : Nat) (v : Bool) (evs : List Event) :
    (s.exchanged n g v evs).faultAt k = s.faultAt (n + k) := by
  simp [State.faultAt, List.getElem?_drop, Nat.add_assoc]

@[simp] theorem State.level_exchanged (s : State) (n g k : Nat) (v : Bool) (evs : List Event) :
    (s.exchanged n g v evs).level k = s.level (g + k) := by
  simp [State.level, List.getElem?_drop, Nat.add_assoc]

@[simp] theorem State.sample_exchanged (s : State) (n g k : Nat) (v : Bool) (evs : List Event) :
    (s.exchanged n g v evs).sample k = s.sample (g + k) := by
  simp [State.sample]

/-- The level the next `Get` draws is the first one counted from here. -/
theorem State.level_zero (s : State) : s.level 0 = s.nextLevel := by
  cases h : s.sdiIn <;> simp [State.nextLevel, State.level, h]

/-- The sample a `Get(Sdi)` returns, whatever transport draws come before it. -/
theorem State.sample_zero (s : State) : s.sample 0 = (s.nextLevel ^^ (pinEntry s.cfg.pins .sdi).inverted) := by
  simp [State.sample, State.level_zero]

/-- An exchange after an exchange is one exchange. -/
theorem State.exchanged_exchanged (s : State) (n g n' g' : Nat) (v v' : Bool) (evs evs' : List Event) :
    (s.exchanged n g v evs).exchanged n' g' v' evs' = s.exchanged (n + n') (g + g') v' (evs ++ evs') := by
  simp [State.exchanged, Nat.add_assoc]

/-! ### What each transport call can do -/

/-- `Set` fails without effect, or leaves the level and its event. -/
theorem setPin_cases (p : Pin) (v : Bool) (s : State) :
    (∃ e, s.faultAt 0 = some e ∧ setPin p v s = .raised (.transport e) s.drawFault)
    ∨ (s.faultAt 0 = none ∧ setPin p v s = .done () ((s.drawFault.setLvl p v).emit (.set p v))) := by
  rw [← State.nextFault_eq]
  cases h : s.nextFault with
  | none => exact .inr ⟨rfl, transportCall_ok h⟩
  | some e => exact .inl ⟨e, rfl, transportCall_fails h⟩

/-- `Get` fails without effect, or draws one level and leaves its event. -/
theorem getPin_cases (p : Pin) (s : State) :
    (∃ e, s.faultAt 0 = some e ∧ getPin p s = .raised (.transport e) s.drawFault)
    ∨ (s.faultAt 0 = none ∧ getPin p s
      = .done (s.level 0 ^^ (pinEntry s.cfg.pins p).inverted)
        (s.drawFault.drawLevel.emit (.get p (s.level 0 ^^ (pinEntry s.cfg.pins p).inverted)))) := by
  rw [← State.nextFault_eq, State.level_zero]
  cases h : s.nextFault with
  | none => exact .inr ⟨rfl, transportCall_ok h⟩
  | some e => exact .inl ⟨e, rfl, transportCall_fails h⟩

/-- `Pulse` fails without effect, or leaves its event. -/
theorem pulse_cases (p : Pin) (s : State) :
    (∃ e, s.faultAt 0 = some e ∧ pulse p s = .raised (.transport e) s.drawFault)
    ∨ (s.faultAt 0 = none ∧ pulse p s = .done () (s.drawFault.emit (.pulse p))) := by
  rw [← State.nextFault_eq]
  cases h : s.nextFault with
  | none => exact .inr ⟨rfl, transportCall_ok h⟩
  | some e => exact .inl ⟨e, rfl, transportCall_fails h⟩

/-- `Delay` fails without effect, or leaves its event. -/
theorem delay_cases (us : Nat) (s : State) :
    (∃ e, s.faultAt 0 = some e ∧ delay us s = .raised (.transport e) s.drawFault)
    ∨ (s.faultAt 0 = none ∧ delay us s = .done () (s.drawFault.emit (.delay us))) := by
  rw [← State.nextFault_eq]
  cases h : s.nextFault with
  | none => exact .inr ⟨rfl, transportCall_ok h⟩
  | some e => exact .inl ⟨e, rfl, transportCall_fails h⟩

/-! ### A call that does not fail, as an exchange of one event -/

theorem State.drawFault_eq (s : State) : s.drawFault = s.exchanged 1 0 s.lvlSdo [] := by
  simp [State.drawFault, State.exchanged]

theorem setPin_sdo_exchanged {s : State} (v : Bool) (h : s.faultAt 0 = none) :
    setPin .sdo v s = .done () (s.exchanged 1 0 v [.set .sdo v]) := by
  rcases setPin_cases .sdo v s with ⟨e, he, -⟩ | ⟨-, hs⟩
  · simp [he] at h
  · rw [hs]; simp [State.drawFault, State.exchanged, State.setLvl, State.emit]

theorem getPin_sdi_exchanged {s : State} (h : s.faultAt 0 = none) :
    getPin .sdi s = .done (s.sample 0) (s.exchanged 1 1 s.lvlSdo [.get .sdi (s.sample 0)]) := by
  rcases getPin_cases .sdi s with ⟨e, he, -⟩ | ⟨-, hs⟩
  · simp [he] at h
  · rw [hs]; simp [State.drawFault, State.drawLevel, State.exchanged, State.emit, State.sample]

theorem pulse_exchanged {s : State} (p : Pin) (h : s.faultAt 0 = none) :
    pulse p s = .done () (s.exchanged 1 0 s.lvlSdo [.pulse p]) := by
  rcases pulse_cases p s with ⟨e, he, -⟩ | ⟨-, hs⟩
  · simp [he] at h
  · rw [hs]; simp [State.drawFault, State.exchanged, State.emit]

theorem delay_exchanged {s : State} (us : Nat) (h : s.faultAt 0 = none) :
    delay us s = .done () (s.exchanged 1 0 s.lvlSdo [.delay us]) := by
  rcases delay_cases us s with ⟨e, he, -⟩ | ⟨-, hs⟩
  · simp [he] at h
  · rw [hs]; simp [State.drawFault, State.exchanged, State.emit]

/-- The calls after an exchange of `n` of them do not fail where the first `n + k` do not. -/
theorem State.noFault_exchanged {s : State} {n k : Nat} (h : s.NoFault (n + k)) (g : Nat) (v : Bool) (evs : List Event) :
    (s.exchanged n g v evs).NoFault k := by
  intro j hj
  rw [State.faultAt_exchanged]
  exact h _ (by omega)

theorem State.NoFault.mono {s : State} {n k : Nat} (h : s.NoFault n) (hk : k ≤ n) : s.NoFault k :=
  fun j hj => h j (by omega)

/-! ### What an exchange on the wires changes: `SameSession` -/

theorem SameSession.refl (s : State) : SameSession s s := by constructor <;> rfl

theorem SameSession.trans {s t u : State} (h : SameSession s t) (k : SameSession t u) : SameSession s u := by
  constructor
  case trace => exact h.trace.trans k.trace
  all_goals first
    | exact k.cfg.trans h.cfg | exact k.lvlAux.trans h.lvlAux | exact k.fsm.trans h.fsm
    | exact k.resyncTries.trans h.resyncTries | exact k.peOk.trans h.peOk | exact k.extLast.trans h.extLast
    | exact k.pollTries.trans h.pollTries | exact k.cursor.trans h.cursor | exact k.pageVals.trans h.pageVals
    | exact k.results.trans h.results | exact k.pending.trans h.pending | exact k.profile.trans h.profile
    | exact k.lvlSck.trans h.lvlSck

theorem SameSession.drawFault (s : State) : SameSession s s.drawFault := by constructor <;> rfl

theorem SameSession.drawLevel (s : State) : SameSession s s.drawLevel := by constructor <;> rfl

theorem SameSession.emit (s : State) (ev : Event) : SameSession s (s.emit ev) := by
  constructor <;> first | rfl | exact List.prefix_append _ _

theorem SameSession.setSdo (s : State) (v : Bool) : SameSession s (s.setLvl .sdo v) := by
  constructor <;> rfl

theorem setPin_sdo_session (v : Bool) (s : State) : (setPin .sdo v s).Leaves (SameSession s) :=
  transportCall_leaves (.drawFault s) fun h => (h.trans (.setSdo _ v)).trans (.emit _ _)

theorem getPin_session (p : Pin) (s : State) : (getPin p s).Leaves (SameSession s) :=
  transportCall_leaves (.drawFault s) fun h => (h.trans (.drawLevel _)).trans (.emit _ _)

theorem pulse_session (p : Pin) (s : State) : (pulse p s).Leaves (SameSession s) :=
  transportCall_leaves (.drawFault s) fun h => h.trans (.emit _ _)

theorem delay_session (us : Nat) (s : State) : (delay us s).Leaves (SameSession s) :=
  transportCall_leaves (.drawFault s) fun h => h.trans (.emit _ _)

/-- From a state already reached within the session, the next part that keeps the session keeps it from the start. -/
theorem Run.Leaves.session {α : Type} {r : Run α} {s t : State} (k : r.Leaves (SameSession t)) (h : SameSession s t) :
    r.Leaves (SameSession s) := k.mono fun _ => h.trans

theorem transmitBits_session (b : Byte) (is : List Nat) (r : Byte) (s : State) :
    (transmitBits b is r s).Leaves (SameSession s) := by
  induction is generalizing r s with
  | nil => exact .refl s
  | cons i rest ih =>
    exact (getPin_session _ s).bind fun v s₁ h₁ =>
      (((setPin_sdo_session _ s₁).session h₁)).bind fun _ s₂ h₂ =>
        ((pulse_session _ s₂).session h₂).bind fun _ s₃ h₃ => (ih _ s₃).session h₃

theorem transmitByte_session (b : Byte) (s : State) : (transmitByte b s).Leaves (SameSession s) :=
  transmitBits_session b _ _ s

theorem transmitCmd_session (c : Cmd) (s : State) : (transmitCmd c s).Leaves (SameSession s) :=
  (transmitByte_session _ s).bind fun _ s₁ h₁ => ((transmitByte_session _ s₁).session h₁).bind fun _ s₂ h₂ =>
    ((transmitByte_session _ s₂).session h₂).bind fun _ s₃ h₃ => ((transmitByte_session _ s₃).session h₃).bind
      fun _ _ h₄ => h₄

theorem issue_session (T : Template) (addr : Option Nat) (input : Option Byte) (s : State) :
    (issue T addr input s).Leaves (SameSession s) := transmitCmd_session _ s

theorem tpiTxBits_session (bits : List Bool) (s : State) : (tpiTxBits bits s).Leaves (SameSession s) := by
  induction bits generalizing s with
  | nil => exact .refl s
  | cons v rest ih =>
    exact ((setPin_sdo_session v s).bind fun _ s₁ h₁ => (pulse_session _ s₁).session h₁).bind
      fun _ s₂ h₂ => (ih s₂).session h₂

theorem txByte_session (b : Byte) (s : State) : (txByte b s).Leaves (SameSession s) := tpiTxBits_session _ s

theorem tpiRxBit_session (s : State) : (tpiRxBit s).Leaves (SameSession s) :=
  (getPin_session _ s).bind fun _ s₁ h₁ => ((pulse_session _ s₁).session h₁).bind fun _ _ h₂ => h₂

theorem awaitStart_session (k : Nat) (s : State) : (awaitStart k s).Leaves (SameSession s) := by
  induction k generalizing s with
  | zero => exact .refl s
  | succ k ih =>
    refine (tpiRxBit_session s).bind fun v s₁ h₁ => ?_
    cases v
    · exact h₁
    · exact (ih s₁).session h₁

theorem tpiRxData_session (ns : List Nat) (d : Byte) (s : State) : (tpiRxData ns d s).Leaves (SameSession s) := by
  induction ns generalizing d s with
  | nil => exact .refl s
  | cons n rest ih => exact (tpiRxBit_session s).bind fun _ s₁ h₁ => (ih _ s₁).session h₁

/-- The framer changes no session state, errors included (R330 E4). -/
theorem rxByte_session (s : State) : (rxByte s).Leaves (SameSession s) := by
  refine (setPin_sdo_session true s).bind fun _ s₁ h₁ => ((awaitStart_session _ s₁).session h₁).bind fun f s₂ h₂ => ?_
  split
  · exact h₂
  refine ((tpiRxData_session _ _ s₂).session h₂).bind fun d s₃ h₃ => ((tpiRxBit_session s₃).session h₃).bind
    fun p s₄ h₄ => ?_
  split
  · exact h₄
  refine ((tpiRxBit_session s₄).session h₄).bind fun x s₅ h₅ => ((tpiRxBit_session s₅).session h₅).bind
    fun y s₆ h₆ => ?_
  split <;> exact h₆

theorem cmdTpi_session (tx : List Byte) (n : Nat) (s : State) : (cmdTpi tx n s).Leaves (SameSession s) := by
  have htx : ∀ (tx : List Byte) (s : State), (txBytes tx s).Leaves (SameSession s) := by
    intro tx
    induction tx with
    | nil => exact fun s => .refl s
    | cons b rest ih => exact fun s => (txByte_session b s).bind fun _ s₁ h₁ => (ih s₁).session h₁
  have hrx : ∀ (n : Nat) (s : State), (rxBytes n s).Leaves (SameSession s) := by
    intro n
    induction n with
    | zero => exact fun s => .refl s
    | succ n ih =>
      exact fun s => (rxByte_session s).bind fun _ s₁ h₁ => ((ih s₁).session h₁).bind fun _ _ h₂ => h₂
  exact (htx tx s).bind fun _ s₁ h₁ => (hrx n s₁).session h₁

/-- An engine call changes no session state before it returns. -/
theorem engineBody_session (c : EngineCall) (s : State) : (engineBody c s).Leaves (SameSession s) := by
  cases c with
  | transmitByte b => exact (transmitByte_session b s).bind fun _ _ h => h
  | transmitCmd c => exact (transmitCmd_session c s).bind fun _ _ h => h
  | txByte b => exact (txByte_session b s).bind fun _ _ h => h
  | rxByte => exact (rxByte_session s).bind fun _ _ h => h
  | cmdTpi tx n => exact (cmdTpi_session tx n s).bind fun _ _ h => h

/-! ### What no part of any call changes -/

/-- The configuration, the requests, the profile and what was returned before stay, and the trace only grows. -/
structure SameCore (s t : State) : Prop where
  cfg : t.cfg = s.cfg
  pending : t.pending = s.pending
  profile : t.profile = s.profile
  results : t.results = s.results
  trace : s.trace <+: t.trace

theorem SameCore.refl (s : State) : SameCore s s := ⟨rfl, rfl, rfl, rfl, List.prefix_rfl⟩

theorem SameCore.trans {s t u : State} (h : SameCore s t) (k : SameCore t u) : SameCore s u :=
  ⟨k.cfg.trans h.cfg, k.pending.trans h.pending, k.profile.trans h.profile, k.results.trans h.results,
    h.trace.trans k.trace⟩

theorem SameSession.core {s t : State} (h : SameSession s t) : SameCore s t :=
  ⟨h.cfg, h.pending, h.profile, h.results, h.trace⟩

/-- Updates of session registers alone keep the core. -/
theorem SameCore.update {s t u : State} (h : SameCore s t) (h1 : u.cfg = t.cfg) (h2 : u.pending = t.pending)
    (h3 : u.profile = t.profile) (h4 : u.results = t.results) (h5 : u.trace = t.trace) : SameCore s u :=
  ⟨h1.trans h.cfg, h2.trans h.pending, h3.trans h.profile, h4.trans h.results, h5 ▸ h.trace⟩

theorem Run.Leaves.core {α : Type} {r : Run α} {s t : State} (k : r.Leaves (SameCore t)) (h : SameCore s t) :
    r.Leaves (SameCore s) := k.mono fun _ => h.trans

theorem Run.Leaves.coreOfSession {α : Type} {r : Run α} {s t : State} (k : r.Leaves (SameSession t))
    (h : SameCore s t) : r.Leaves (SameCore s) := k.mono fun _ hu => h.trans hu.core

theorem runPinOps_core (ops : List PinOp) (s : State) : (runPinOps ops s).Leaves (SameCore s) := by
  induction ops generalizing s with
  | nil => exact .refl s
  | cons op rest ih =>
    have h : (runPinOp op s).Leaves (SameCore s) := by
      cases op with
      | set p v =>
        simp only [runPinOp, setPin]
        refine transportCall_leaves (SameSession.drawFault s).core fun h => h.trans ⟨?_, ?_, ?_, ?_, ?_⟩ <;> simp
      | pulse p => exact (pulse_session p s).mono fun _ h => h.core
      | delay us => exact (delay_session us s).mono fun _ h => h.core
    exact h.bind fun _ s₁ h₁ => (ih s₁).core h₁

/-- What a preamble or a postamble can do: it is done as its operations are, or it raises their error with `lvl[Sck]` back
at its value at the start. -/
theorem runPinList_cases (ops : List PinOp) (s : State) :
    (∃ t, runPinOps ops s = .done () t ∧ runPinList ops s = .done () t)
    ∨ ∃ e t, runPinOps ops s = .raised e t ∧ runPinList ops s = .raised e { t with lvlSck := s.lvlSck } := by
  cases h : runPinOps ops s with
  | done u t => exact .inl ⟨t, rfl, by simp [runPinList, h]⟩
  | raised e t => exact .inr ⟨e, t, rfl, by simp [runPinList, h]⟩

theorem runPinList_core (ops : List PinOp) (s : State) : (runPinList ops s).Leaves (SameCore s) := by
  have k := runPinOps_core ops s
  rcases runPinList_cases ops s with ⟨t, h, h'⟩ | ⟨e, t, h, h'⟩ <;> rw [h] at k <;> rw [h']
  · exact k
  · exact (Run.leaves_raised.1 k).update rfl rfl rfl rfl rfl

/-- The operations of a list, none of which fails, leave `Sck` at the level the list says. -/
theorem runPinOps_sck {ops : List PinOp} {s t : State} (h : runPinOps ops s = .done () t) :
    t.lvlSck = sckAfter s.lvlSck ops := by
  induction ops generalizing s with
  | nil => cases h; rfl
  | cons op rest ih =>
    obtain ⟨_, u, hu, ht⟩ := Run.bind_eq_done.1 h
    rw [ih ht]
    cases op with
    | set p v =>
      rcases setPin_cases p v s with ⟨e, -, hs⟩ | ⟨-, hs⟩ <;> rw [runPinOp, hs] at hu <;> cases hu
      cases p <;> rfl
    | pulse p =>
      have k := pulse_session p s
      rw [show pulse p s = _ from hu] at k
      rw [k.lvlSck]; cases p <;> rfl
    | delay us =>
      have k := delay_session us s
      rw [show delay us s = _ from hu] at k
      rw [k.lvlSck]; rfl

/-- A preamble or a postamble that leaves `Sck` as it was where it is done leaves it so whichever way it ends (R312 (b)). -/
theorem runPinList_sck {ops : List PinOp} {s : State} (h : sckAfter s.lvlSck ops = s.lvlSck) :
    (runPinList ops s).Leaves fun t => t.lvlSck = s.lvlSck := by
  rcases runPinList_cases ops s with ⟨t, h₁, h'⟩ | ⟨e, t, -, h'⟩ <;> rw [h']
  · exact (runPinOps_sck h₁).trans h
  · rfl

theorem leaIfNeeded_core (m : Region) (fa : Nat) (s : State) : (leaIfNeeded m fa s).Leaves (SameCore s) := by
  unfold leaIfNeeded
  split
  · exact .refl s
  · split
    · exact .refl s
    · exact ((issue_session _ _ _ s).coreOfSession (.refl s)).bind fun _ t h => h.update rfl rfl rfl rfl rfl

theorem send_core (m : Region) (T : Template) (a : Nat) (d : Option Byte) (s : State) :
    (send m T a d s).Leaves (SameCore s) :=
  (leaIfNeeded_core m _ s).bind fun _ s₁ h₁ => (issue_session _ _ _ s₁).coreOfSession h₁

theorem withOp_core {α : Type} (rn : RegionName) (m : Region) (o : OpName) (k : Template → State → Run α) (s : State)
    (h : ∀ T, (k T s).Leaves (SameCore s)) : (withOp rn m o k s).Leaves (SameCore s) := by
  unfold withOp
  split
  · exact h _
  · exact .refl s

theorem readByte_core (rn : RegionName) (m : Region) (a : Nat) (s : State) :
    (readByte rn m a s).Leaves (SameCore s) :=
  withOp_core rn m _ _ s fun T => (send_core m T a none s).bind fun _ _ h => h

theorem resyncLoop_core (T : Template) (p : Fin 4 × Byte) (n : Nat) (s : State) :
    (resyncLoop T p n s).Leaves (SameCore s) := by
  induction n generalizing s with
  | zero => exact (SameCore.refl s).update rfl rfl rfl rfl rfl
  | succ n ih =>
    refine ((issue_session _ _ _ s).coreOfSession (.refl s)).bind fun res s₁ h₁ => ?_
    split
    · exact h₁.update rfl rfl rfl rfl rfl
    · refine ((pulse_session _ s₁).coreOfSession h₁).bind fun _ s₂ h₂ => ?_
      split
      · exact h₂.update rfl rfl rfl rfl rfl
      · exact (ih s₂.countResync).core (h₂.update rfl rfl rfl rfl rfl)

theorem enableBody_core (T : Template) (s : State) : (enableBody T s).Leaves (SameCore s) := by
  unfold enableBody
  split
  · exact ((issue_session _ _ _ s).coreOfSession (.refl s)).bind fun _ _ h => h.update rfl rfl rfl rfl rfl
  · exact resyncLoop_core _ _ _ s

theorem handshake_core (s : State) : (handshake s).Leaves (SameCore s) := by
  have h0 : SameCore s s.clearHandshake := (SameCore.refl s).update rfl rfl rfl rfl rfl
  refine ((runPinList_core s.cfg.initPreamble s.clearHandshake).core h0).bind fun _ s₁ h₁ => ?_
  split
  · exact h₁
  · exact Run.Leaves.bind ((enableBody_core _ _).core (h₁.update rfl rfl rfl rfl rfl)) fun _ _ h => h

theorem readLoop_core (rn : RegionName) (m : Region) (start total left q : Nat) (s : State) :
    (readLoop rn m start total left q s).Leaves (SameCore s) := by
  induction left generalizing q s with
  | zero => exact .refl s
  | succ left ih =>
    exact (readByte_core rn m _ s).bind fun _ s₁ h₁ =>
      ((ih _ _).core (h₁.trans (SameSession.emit s₁ _).core)).bind fun _ _ h => h

theorem pollLoop_core (rn : RegionName) (m : Region) (a : Nat) (d : Byte) (n : Nat) (s : State) :
    (pollLoop rn m a d n s).Leaves (SameCore s) := by
  induction n generalizing s with
  | zero => exact .refl s
  | succ n ih =>
    refine ((delay_session _ s).coreOfSession (.refl s)).bind fun _ s₁ h₁ =>
      ((readByte_core rn m a s₁).core h₁).bind fun v s₂ h₂ => ?_
    split
    · exact h₂
    · split
      · exact h₂.update rfl rfl rfl rfl rfl
      · exact (ih _).core (h₂.update rfl rfl rfl rfl rfl)

theorem poll_core (rn : RegionName) (m : Region) (a : Nat) (d : Byte) (s : State) :
    (poll rn m a d s).Leaves (SameCore s) := by
  unfold poll
  split
  · exact (delay_session _ s).coreOfSession (.refl s)
  · exact (pollLoop_core rn m a d _ _).core ((SameCore.refl s).update rfl rfl rfl rfl rfl)

theorem writeByte_core (rn : RegionName) (m : Region) (a : Nat) (d : Byte) (s : State) :
    (writeByte rn m a d s).Leaves (SameCore s) := by
  refine (readByte_core rn m a s).bind fun cur s₁ h₁ => ?_
  split
  · exact h₁
  · exact ((withOp_core rn m _ _ s₁ fun T => send_core m T a (some d) s₁).core h₁).bind fun _ s₂ h₂ =>
      (poll_core rn m a d s₂).core h₂

theorem writeLoop_core (rn : RegionName) (m : Region) (start total : Nat) (data : List Byte) (q : Nat) (s : State) :
    (writeLoop rn m start total data q s).Leaves (SameCore s) := by
  induction data generalizing q s with
  | nil => exact .refl s
  | cons d rest ih =>
    exact (writeByte_core rn m _ d s).bind fun _ s₁ h₁ => (ih _ _).core (h₁.trans (SameSession.emit s₁ _).core)

theorem flushPage_core (rn : RegionName) (m : Region) (base : Nat) (s : State) :
    (flushPage rn m base s).Leaves (SameCore s) := by
  refine (withOp_core rn m _ _ s fun T => send_core m T base none s).bind fun _ s₁ h₁ => ?_
  refine Run.Leaves.bind ?_ fun _ s₂ h₂ => h₂.update rfl rfl rfl rfl rfl
  split
  · exact (delay_session _ s₁).coreOfSession h₁
  · exact (poll_core rn m _ _ s₁).core h₁

theorem pagedLoop_core (rn : RegionName) (m : Region) (start total : Nat) (data : List Byte) (q : Nat) (s : State) :
    (pagedLoop rn m start total data q s).Leaves (SameCore s) := by
  induction data generalizing q s with
  | nil => exact .refl s
  | cons d rest ih =>
    have h0 : SameCore s { s with cursor := q } := (SameCore.refl s).update rfl rfl rfl rfl rfl
    refine ((withOp_core rn m _ _ _ fun T => send_core m T _ (some d) _).core h0).bind fun _ s₁ h₁ => ?_
    have h₂ : SameCore s { s₁ with pageVals := Memory.store s₁.pageVals (start + q) d } :=
      h₁.update rfl rfl rfl rfl rfl
    dsimp only
    split
    · exact ((flushPage_core rn m _ _).core h₂).bind fun _ s₃ h₃ =>
        (ih _ _).core (h₃.trans (SameSession.emit s₃ _).core)
    · exact (ih _ _).core h₂

theorem eraseBody_core (s : State) : (eraseBody s).Leaves (SameCore s) := by
  unfold eraseBody
  split
  · exact .refl s
  · have h0 : SameCore s { s with fsm := .erasing, extLast := none } := (SameCore.refl s).update rfl rfl rfl rfl rfl
    exact ((issue_session _ _ _ _).coreOfSession h0).bind fun _ s₁ h₁ =>
      ((delay_session _ s₁).coreOfSession h₁).bind fun _ s₂ h₂ => (handshake_core s₂).core h₂

theorem writeBody_core (rn : RegionName) (m : Region) (start : Nat) (data : List Byte) (s : State) :
    (writeBody rn m start data s).Leaves (SameCore s) := by
  unfold writeBody
  refine Run.Leaves.bind ?_ fun _ _ h => h.update rfl rfl rfl rfl rfl
  split
  · exact (pagedLoop_core rn m start _ data 0 _).core ((SameCore.refl s).update rfl rfl rfl rfl rfl)
  · exact (writeLoop_core rn m start _ data 0 _).core ((SameCore.refl s).update rfl rfl rfl rfl rfl)

theorem disableBody_core (s : State) : (disableBody s).Leaves (SameCore s) :=
  Run.Leaves.bind ((runPinList_core _ _).core ((SameCore.refl s).update rfl rfl rfl rfl rfl)) fun _ _ h =>
    Run.leaves_done.2 (h.update rfl rfl rfl rfl rfl)

/-- An ISP word's exchange changes no core, whatever its class does with the response. -/
theorem issue_bind_core {T : Template} {fa : Option Nat} {d : Option Byte} {s : State}
    {k : Cmd → State → Run CallResult} (hk : ∀ r t, (k r t).Leaves (SameCore t)) :
    ((issue T fa d s).bind k).Leaves (SameCore s) :=
  ((issue_session T fa d s).coreOfSession (.refl s)).bind fun r t h => (hk r t).core h

/-! ### How a call ends -/

/-- What the end of a call says of the state: one result is returned, the trace only grew, and the configuration, the
other requests and the profile stay. -/
structure Returned (s t : State) (r : CallResult) : Prop where
  cfg : t.cfg = s.cfg
  pending : t.pending = s.pending
  profile : t.profile = s.profile
  results : t.results = s.results ++ [r]
  trace : s.trace <+: t.trace

/-- The end of a call, by the way it ended (R11, R335): exactly one result is returned. -/
theorem complete_returned {s : State} {f : Fsm} {r : Run CallResult} (h : r.Leaves (SameCore s)) :
    ∃ res, Returned s (complete f r) res ∧
      ((∃ t, r = .done res t) ∨ ∃ e t, r = .raised e t ∧ res = .error e) := by
  cases r with
  | done a t =>
    exact ⟨a, ⟨h.cfg, h.pending, h.profile, by simp [complete, Run.leaves_done.1 h |>.results], h.trace⟩,
      .inl ⟨t, rfl⟩⟩
  | raised e t =>
    exact ⟨.error e, ⟨h.cfg, h.pending, h.profile, by simp [complete, Run.leaves_raised.1 h |>.results], h.trace⟩,
      .inr ⟨e, t, rfl, rfl⟩⟩

/-- A call whose check names no error is its body; one whose check names an error returns it, and nothing else changes
(R135, R261, R331): those checks name configuration errors only, which leave `fsm` and `page_vals`. -/
theorem checked_none {c : Option Err} {s : State} {body : State → Run CallResult} (h : c = none) :
    checked c s body = complete s.fsm (body s) := by rw [h]; rfl

theorem checked_config {c : Option Err} {s : State} {body : State → Run CallResult} {e : Err} (h : c = some e)
    (he : (∃ p, e = .unassignedPin p) ∨ ∃ o, e = .undefinedOpcode o) :
    checked c s body = returnResult (.error e) s := by
  rcases he with ⟨p, rfl⟩ | ⟨o, rfl⟩ <;> rw [h] <;> rfl

/-- The end of a checked call: exactly one result is returned. -/
theorem checked_returned {c : Option Err} {s : State} {body : State → Run CallResult}
    (h : (body s).Leaves (SameCore s)) : ∃ res, Returned s (checked c s body) res := by
  cases c with
  | none => exact (complete_returned h).imp fun _ k => k.1
  | some e => exact ⟨.error e, rfl, rfl, rfl, rfl, List.prefix_rfl⟩

/-- No listed pin is reported exactly where every listed pin is assigned. -/
theorem unassignedAmong?_eq_none {c : Configuration} {ps : List Pin} :
    unassignedAmong? c ps = none ↔ ∀ p ∈ ps, (pinEntry c.pins p).line ≠ none := by
  simp [unassignedAmong?, Option.isNone_iff_eq_none]

/-- The first listed pin without a line is the one reported (R338). -/
@[simp] theorem mem_disablePins {c : Configuration} {p : Pin} :
    p ∈ disablePins c ↔ p ∈ c.disablePostamble.filterMap pinOpPin? := by
  simp only [disablePins, requiredPins, List.mem_filter, List.mem_append, decide_eq_true_eq]
  exact and_iff_right_of_imp .inr

/-- The check of `disable` passes exactly where every pin of the postamble is assigned. -/
theorem checkDisable_eq_none {c : Configuration} :
    checkDisable c = none ↔ ∀ p ∈ c.disablePostamble.filterMap pinOpPin?, (pinEntry c.pins p).line ≠ none := by
  rw [checkDisable, unassignedAmong?_eq_none]
  simp only [mem_disablePins]

theorem unassignedAmong?_first {c : Configuration} {ps before after : List Pin} {p : Pin} (h : ps = before ++ p :: after)
    (hb : ∀ q ∈ before, (pinEntry c.pins q).line ≠ none) (hp : (pinEntry c.pins p).line = none) :
    unassignedAmong? c ps = some (.unassignedPin p) := by
  have hf : before.find? (fun q => (pinEntry c.pins q).line.isNone) = none := by
    simpa [Option.isNone_iff_eq_none] using hb
  simp [unassignedAmong?, h, List.find?_append, hf, hp]

/-! ### Items on the wires -/

@[simp] theorem State.afterItems_nil (s : State) (m : Region) : s.afterItems m [] = s := rfl

@[simp] theorem State.afterItems_cons (s : State) (m : Region) (i : WireItem) (items : List WireItem) :
    s.afterItems m (i :: items) = (s.afterItem m i).afterItems m items := rfl

@[simp] theorem State.afterItems_append (s : State) (m : Region) (xs ys : List WireItem) :
    s.afterItems m (xs ++ ys) = (s.afterItems m xs).afterItems m ys := by simp [State.afterItems, List.foldl_append]

end Sys2Proof.Machine
end

