-- ==== Sys2Proof/Laws/PerInstr.lean ====
section
/-! SUPPORT. One family of lemmas per instruction: in every profile that has the instruction there is a row with its
template, and that row accepts the word the encoder writes for it, whatever its operands. -/

namespace Sys2Proof.Laws

/-- Some row of every profile of the instruction has its template and accepts its word. -/
def OwnRow.Statement (i : Instr) : Prop :=
  ∀ p ∈ i.profiles, ∃ r ∈ p.rows, r.template = i.template ∧ r.accepts (encode i).word = true

/-- A row of the instruction's profiles with its template, whose mask names no operand position. -/
theorem OwnRow.of_row (i : Instr) (ps : List Profile) (hps : i.profiles = ps) (T : Template) (hT : i.template = T)
    (h : (ps.all fun p => p.rows.any fun r => r.template = T ∧ r.template.constBits &&& r.mask = r.template.constBits
      ∧ maskFree r.mask r.template.addrMap = true ∧ maskFree r.mask r.template.inputMap = true) = true) :
    OwnRow.Statement i := by
  intro p hp
  rw [List.all_eq_true] at h
  have h := h p (hps ▸ hp)
  rw [List.any_eq_true] at h
  obtain ⟨r, hr, h⟩ := h
  obtain ⟨h1, h2, h3, h4⟩ := of_decide_eq_true h
  refine ⟨r, hr, h1.trans hT.symm, ?_⟩
  rw [encode, build, Cmd.word_ofWord, hT, ← h1]
  exact r.accepts_build i.addr i.input h2 h3 h4

theorem OwnRow.p0PgmEnable : OwnRow.Statement (.p0PgmEnable) :=
  OwnRow.of_row _ [.p0, .p1] rfl tplP0PgmEnable rfl (by decide)

theorem OwnRow.p0ChipErase : OwnRow.Statement (.p0ChipErase) :=
  OwnRow.of_row _ [.p0, .p1, .p2] rfl tplP0ChipErase rfl (by decide)

theorem OwnRow.p0FlashReadLo (fa : Nat) : OwnRow.Statement (.p0FlashReadLo fa) :=
  OwnRow.of_row _ [.p0] rfl tplP0FlashReadLo rfl (by decide)

theorem OwnRow.p0FlashReadHi (fa : Nat) : OwnRow.Statement (.p0FlashReadHi fa) :=
  OwnRow.of_row _ [.p0] rfl tplP0FlashReadHi rfl (by decide)

theorem OwnRow.p0FlashLoadpageLo (fa : Nat) (d : Byte) : OwnRow.Statement (.p0FlashLoadpageLo fa d) :=
  OwnRow.of_row _ [.p0] rfl tplP0FlashLoadpageLo rfl (by decide)

theorem OwnRow.p0FlashLoadpageHi (fa : Nat) (d : Byte) : OwnRow.Statement (.p0FlashLoadpageHi fa d) :=
  OwnRow.of_row _ [.p0] rfl tplP0FlashLoadpageHi rfl (by decide)

theorem OwnRow.p0FlashWritepage (fa : Nat) : OwnRow.Statement (.p0FlashWritepage fa) :=
  OwnRow.of_row _ [.p0] rfl tplP0FlashWritepage rfl (by decide)

theorem OwnRow.p0EepromRead (fa : Nat) : OwnRow.Statement (.p0EepromRead fa) :=
  OwnRow.of_row _ [.p0] rfl tplP0EepromRead rfl (by decide)

theorem OwnRow.p0EepromWrite (fa : Nat) (d : Byte) : OwnRow.Statement (.p0EepromWrite fa d) :=
  OwnRow.of_row _ [.p0] rfl tplP0EepromWrite rfl (by decide)

theorem OwnRow.p0SignatureRead (fa : Nat) : OwnRow.Statement (.p0SignatureRead fa) :=
  OwnRow.of_row _ [.p0] rfl tplP0SignatureRead rfl (by decide)

theorem OwnRow.p0LfuseRead : OwnRow.Statement (.p0LfuseRead) :=
  OwnRow.of_row _ [.p0] rfl tplP0LfuseRead rfl (by decide)

theorem OwnRow.p0LfuseWrite (d : Byte) : OwnRow.Statement (.p0LfuseWrite d) :=
  OwnRow.of_row _ [.p0] rfl tplP0LfuseWrite rfl (by decide)

theorem OwnRow.p0HfuseRead : OwnRow.Statement (.p0HfuseRead) :=
  OwnRow.of_row _ [.p0] rfl tplP0HfuseRead rfl (by decide)

theorem OwnRow.p0HfuseWrite (d : Byte) : OwnRow.Statement (.p0HfuseWrite d) :=
  OwnRow.of_row _ [.p0] rfl tplP0HfuseWrite rfl (by decide)

theorem OwnRow.p0EfuseRead : OwnRow.Statement (.p0EfuseRead) :=
  OwnRow.of_row _ [.p0] rfl tplP0EfuseRead rfl (by decide)

theorem OwnRow.p0EfuseWrite (d : Byte) : OwnRow.Statement (.p0EfuseWrite d) :=
  OwnRow.of_row _ [.p0] rfl tplP0EfuseWrite rfl (by decide)

theorem OwnRow.p0LockRead : OwnRow.Statement (.p0LockRead) :=
  OwnRow.of_row _ [.p0] rfl tplP0LockRead rfl (by decide)

theorem OwnRow.p0LockWrite (d : Byte) : OwnRow.Statement (.p0LockWrite d) :=
  OwnRow.of_row _ [.p0] rfl tplP0LockWrite rfl (by decide)

theorem OwnRow.p0CalibrationRead : OwnRow.Statement (.p0CalibrationRead) :=
  OwnRow.of_row _ [.p0] rfl tplP0CalibrationRead rfl (by decide)

theorem OwnRow.p1FlashLoadExtAddr (fa : Nat) : OwnRow.Statement (.p1FlashLoadExtAddr fa) :=
  OwnRow.of_row _ [.p1] rfl tplP1FlashLoadExtAddr rfl (by decide)

theorem OwnRow.p1FlashReadLo (fa : Nat) : OwnRow.Statement (.p1FlashReadLo fa) :=
  OwnRow.of_row _ [.p1] rfl tplP1FlashReadLo rfl (by decide)

theorem OwnRow.p1FlashReadHi (fa : Nat) : OwnRow.Statement (.p1FlashReadHi fa) :=
  OwnRow.of_row _ [.p1] rfl tplP1FlashReadHi rfl (by decide)

theorem OwnRow.p1FlashLoadpageLo (fa : Nat) (d : Byte) : OwnRow.Statement (.p1FlashLoadpageLo fa d) :=
  OwnRow.of_row _ [.p1] rfl tplP1FlashLoadpageLo rfl (by decide)

theorem OwnRow.p1FlashLoadpageHi (fa : Nat) (d : Byte) : OwnRow.Statement (.p1FlashLoadpageHi fa d) :=
  OwnRow.of_row _ [.p1] rfl tplP1FlashLoadpageHi rfl (by decide)

theorem OwnRow.p1FlashWritepage (fa : Nat) : OwnRow.Statement (.p1FlashWritepage fa) :=
  OwnRow.of_row _ [.p1] rfl tplP1FlashWritepage rfl (by decide)

theorem OwnRow.p2PgmEnable : OwnRow.Statement (.p2PgmEnable) :=
  OwnRow.of_row _ [.p2] rfl tplP2PgmEnable rfl (by decide)

theorem OwnRow.p2FlashReadLo (fa : Nat) : OwnRow.Statement (.p2FlashReadLo fa) :=
  OwnRow.of_row _ [.p2] rfl tplP2FlashReadLo rfl (by decide)

theorem OwnRow.p2FlashReadHi (fa : Nat) : OwnRow.Statement (.p2FlashReadHi fa) :=
  OwnRow.of_row _ [.p2] rfl tplP2FlashReadHi rfl (by decide)

theorem OwnRow.p2FlashWriteLo (fa : Nat) (d : Byte) : OwnRow.Statement (.p2FlashWriteLo fa d) :=
  OwnRow.of_row _ [.p2] rfl tplP2FlashWriteLo rfl (by decide)

theorem OwnRow.p2FlashWriteHi (fa : Nat) (d : Byte) : OwnRow.Statement (.p2FlashWriteHi fa d) :=
  OwnRow.of_row _ [.p2] rfl tplP2FlashWriteHi rfl (by decide)

end Sys2Proof.Laws
end

