-- ==== Sys2Proof/Tests/Slice0.lean ====
section
/-! SUPPORT. Tests. Every expected value is the spec's: the words and examples of 43_isp_codec.md Part 3 and the vectors of
95_test_vectors.md, whose ids stand at the tests. Then, for each statement with hypotheses, a state and operands that
meet all of them. -/

open Sys2Proof Sys2Proof.Machine

namespace Sys2Proof.Tests

set_option maxRecDepth 20000

/-! ### Helpers: the fixture of 95_test_vectors.md §0 -/

/-- The bits of a byte, most significant first. -/
def msbFirst (b : Byte) : List Bool := [7, 6, 5, 4, 3, 2, 1, 0].map b.getLsbD

/-- Levels as bytes, most significant bit first. -/
def bytesOf : List Bool → List Byte
  | a :: b :: c :: d :: e :: f :: g :: h :: rest =>
    BitVec.ofNat 8 ([a, b, c, d, e, f, g, h].foldl (fun n v => 2 * n + v.toNat) 0) :: bytesOf rest
  | _ => []

/-- The session of §0: `lvl[Sdo]` drawn as 0, and none of the next 700 transport calls fails. -/
def calm : State := { State.reset with lvlSdo := false, ioFaults := List.replicate 700 none }

/-- The same, enabled. -/
def enabled : State := { calm with fsm := .enabled }

/-- The coming samples are these bytes' bits. -/
def answering (s : State) (bs : List Byte) : State := { s with sdiIn := bs.flatMap msbFirst }

/-- The coming samples are these levels. -/
def sampling (s : State) (levels : List Nat) : State := { s with sdiIn := levels.map (· == 1) }

/-- The session with a part, or with a change of its first region. -/
def withPart (s : State) (p : PartDescriptor) : State := { s with cfg := fixtureConfig p }

/-- The session with other parameters. -/
def withParams (s : State) (p : Params) : State := { s with cfg := { s.cfg with params := p } }

/-- The session with other pins. -/
def withPins (s : State) (p : PinConfig) : State := { s with cfg := { s.cfg with pins := p } }

/-- The session with another preamble and postamble. -/
def withOps (s : State) (pre post : List PinOp) : State :=
  { s with cfg := { s.cfg with initPreamble := pre, disablePostamble := post } }

/-- The next state of an outcome. -/
def nextOf (o : Host.Outcome State Fault Refusal) : State :=
  match o with
  | .next s => s
  | _ => calm

/-- Whether an outcome is a next state. -/
def isNext (o : Host.Outcome State Fault Refusal) : Bool :=
  match o with
  | .next _ => true
  | _ => false

/-- The refusal of an outcome. -/
def refusalOf (o : Host.Outcome State Fault Refusal) : Option Refusal :=
  match o with
  | .refused r => some r
  | _ => none

theorem eq_nextOf {o : Host.Outcome State Fault Refusal} (h : isNext o = true) : o = .next (nextOf o) := by
  cases o <;> simp_all [isNext, nextOf]

/-- The value a part of a call is done with. -/
def valueOf {α : Type} : Run α → Option α
  | .done a _ => some a
  | .raised _ _ => none

/-- The error a part of a call raised. -/
def errorOf {α : Type} : Run α → Option Err
  | .done _ _ => none
  | .raised e _ => some e

/-- The state a part of a call left. -/
def stateOf {α : Type} : Run α → State
  | .done _ s => s
  | .raised _ s => s

theorem eq_done {α : Type} {r : Run α} {a : α} (h : valueOf r = some a) : r = .done a (stateOf r) := by
  cases r <;> simp_all [valueOf, stateOf]

theorem eq_raised {α : Type} {r : Run α} {e : Err} (h : errorOf r = some e) : r = .raised e (stateOf r) := by
  cases r <;> simp_all [errorOf, stateOf]

/-- The bytes on `Sdo` at the clock pulses of the trace. -/
def sent (t : State) : List Byte := bytesOf (sdoAtPulses false t.trace)

/-- The events of a trace that are no exchange of bits. -/
def remarks (t : State) : List Event := t.trace.filter fun
  | .delay _ => true
  | .progress _ _ => true
  | _ => false

/-- None of the next calls fails where the list of failures says so for as many. -/
theorem noFault_of {s : State} {m : Nat} (h : s.ioFaults = List.replicate m none) {n : Nat} (hn : n ≤ m) : s.NoFault n := by
  intro k hk
  have hk : k < m := by omega
  simp [State.faultAt, h, hk]

theorem calm_noFault {n : Nat} (hn : n ≤ 700) : calm.NoFault n := noFault_of rfl hn

/-! ### Well-formedness: each check refuses an ill-formed term (R23, R21, R20, R8, R372) -/

theorem test_wf_refuses_p0FlashReadLo : Instr.wf (.p0FlashReadLo 0x4000) = false := by decide

theorem test_wf_refuses_p0FlashReadHi : Instr.wf (.p0FlashReadHi 0x4000) = false := by decide

theorem test_wf_refuses_p0FlashLoadpageLo : Instr.wf (.p0FlashLoadpageLo 0x40 0#8) = false := by decide

theorem test_wf_refuses_p0FlashLoadpageHi : Instr.wf (.p0FlashLoadpageHi 0x40 0#8) = false := by decide

theorem test_wf_refuses_p0FlashWritepage : Instr.wf (.p0FlashWritepage 0x4000) = false := by decide

theorem test_wf_refuses_p0FlashWritepage_in_page : Instr.wf (.p0FlashWritepage 0x3FFF) = false := by decide

theorem test_wf_refuses_p0EepromRead : Instr.wf (.p0EepromRead 0x400) = false := by decide

theorem test_wf_refuses_p0EepromWrite : Instr.wf (.p0EepromWrite 0x400 0#8) = false := by decide

theorem test_wf_refuses_p0SignatureRead : Instr.wf (.p0SignatureRead 4) = false := by decide

theorem test_wf_refuses_p0LockWrite : Instr.wf (.p0LockWrite 0x40#8) = false := by decide

theorem test_wf_refuses_p1FlashLoadExtAddr : Instr.wf (.p1FlashLoadExtAddr 0x20000) = false := by decide

theorem test_wf_refuses_p1FlashLoadExtAddr_in_window : Instr.wf (.p1FlashLoadExtAddr 0x0FFFF) = false := by decide

theorem test_wf_refuses_p1FlashReadLo : Instr.wf (.p1FlashReadLo 0x10000) = false := by decide

theorem test_wf_refuses_p1FlashReadHi : Instr.wf (.p1FlashReadHi 0x10000) = false := by decide

theorem test_wf_refuses_p1FlashLoadpageLo : Instr.wf (.p1FlashLoadpageLo 0x80 0#8) = false := by decide

theorem test_wf_refuses_p1FlashLoadpageHi : Instr.wf (.p1FlashLoadpageHi 0x80 0#8) = false := by decide

theorem test_wf_refuses_p1FlashWritepage : Instr.wf (.p1FlashWritepage 0x10000) = false := by decide

theorem test_wf_refuses_p1FlashWritepage_in_page : Instr.wf (.p1FlashWritepage 0xFF81) = false := by decide

theorem test_wf_refuses_p2FlashReadLo : Instr.wf (.p2FlashReadLo 0x200) = false := by decide

theorem test_wf_refuses_p2FlashReadHi : Instr.wf (.p2FlashReadHi 0x200) = false := by decide

theorem test_wf_refuses_p2FlashWriteLo : Instr.wf (.p2FlashWriteLo 0x200 0#8) = false := by decide

theorem test_wf_refuses_p2FlashWriteHi : Instr.wf (.p2FlashWriteHi 0x200 0#8) = false := by decide

theorem test_wf_accepts_largest_operands :
    ([.p0FlashReadLo 0x3FFF, .p0FlashLoadpageHi 0x3F 0xFF#8, .p0FlashWritepage 0x3FC0, .p0EepromWrite 0x3FF 0xFF#8,
    .p0SignatureRead 3, .p0LockWrite 0x3F#8, .p1FlashLoadExtAddr 0x10000, .p1FlashReadHi 0xFFFF, .p1FlashWritepage 0xFF80,
    .p2FlashWriteLo 0x1FF 0xFF#8] : List Instr).all Instr.wf = true := by decide

/-- A template with one address bit and one data bit, to be spoilt below. -/
def smallTemplate : Template :=
  { constBits := 0x80000000#32, addrMap := [(8, 0)], inputMap := [(0, 0)], outputByte := none, poll := none }

theorem test_template_wf_accepts : smallTemplate.wf = true := by decide

theorem test_template_wf_refuses_position_twice_across_maps :
    Template.wf { smallTemplate with inputMap := [(8, 0)] } = false := by decide

theorem test_template_wf_refuses_position_twice_in_map :
    Template.wf { smallTemplate with addrMap := [(8, 0), (8, 1)] } = false := by decide

theorem test_template_wf_refuses_constant_under_map :
    Template.wf { smallTemplate with constBits := 0x100#32 } = false := by decide

theorem test_template_wf_refuses_address_bit_twice :
    Template.wf { smallTemplate with addrMap := [(8, 0), (9, 0)] } = false := by decide

theorem test_template_wf_refuses_input_bit_twice :
    Template.wf { smallTemplate with inputMap := [(0, 0), (1, 0)] } = false := by decide

theorem test_template_wf_refuses_position_out_of_word :
    Template.wf { smallTemplate with addrMap := [(32, 0)] } = false := by decide

theorem test_template_wf_refuses_address_bit_out_of_range :
    Template.wf { smallTemplate with addrMap := [(8, 32)] } = false := by decide

theorem test_template_wf_refuses_input_bit_out_of_byte :
    Template.wf { smallTemplate with inputMap := [(0, 8)] } = false := by decide

theorem test_region_wf_refuses_size_0 : Region.wf (byteRegion 0 0 0 0 [] {}) = false := by decide

theorem test_region_wf_refuses_min_above_max : Region.wf (byteRegion 1 2 1 0 [] {}) = false := by decide

theorem test_region_wf_refuses_three_sentinels : Region.wf (byteRegion 1 0 0 0 [0#8, 1#8, 2#8] {}) = false := by decide

theorem test_region_wf_refuses_ill_formed_template :
    Region.wf (byteRegion 1 0 0 0 [] { writeHi := some { smallTemplate with constBits := 1#32 } }) = false := by decide

theorem test_region_wf_accepts_two_sentinels : Region.wf (byteRegion 1 1 1 0 [0#8, 1#8] {}) = true := by decide

theorem test_part_wf_refuses_name_twice :
    PartDescriptor.wf ⟨[(.lock, byteRegion 1 0 0 0 [] {}), (.lock, byteRegion 1 0 0 0 [] {})], none, none, 0⟩ = false := by decide

theorem test_part_wf_refuses_pgm_enable :
    PartDescriptor.wf ⟨[], some { smallTemplate with constBits := 1#32 }, none, 0⟩ = false := by decide

theorem test_part_wf_refuses_chip_erase :
    PartDescriptor.wf ⟨[], none, some { smallTemplate with constBits := 1#32 }, 0⟩ = false := by decide

theorem test_part_wf_refuses_region :
    PartDescriptor.wf ⟨[(.other 7, byteRegion 0 0 0 0 [] {})], none, none, 0⟩ = false := by decide

theorem test_params_wf_refuses_resyncBound :
    Params.wf { Config.defaultParams with resyncBound := 0 } = false := by decide

theorem test_params_wf_refuses_pollBound : Params.wf { Config.defaultParams with pollBound := 0 } = false := by decide

theorem test_params_wf_refuses_startBitWindow :
    Params.wf { Config.defaultParams with startBitWindow := 0 } = false := by decide

theorem test_configuration_wf_refuses_sck_left_active :
    Configuration.wf { fixtureConfig partP0 with initPreamble := [.set .sck true] } = false := by decide

/-- R312 (b): `Sck` is inactive at every host-call boundary, `disable`'s too (log 21). -/
theorem test_configuration_wf_refuses_sck_left_active_by_postamble :
    Configuration.wf { fixtureConfig partP0 with disablePostamble := [.set .sck true] } = false := by decide

theorem test_configuration_wf_accepts_sck_restored :
    Configuration.wf { fixtureConfig partP0 with initPreamble := [.set .sck true, .delay 20, .set .sck false] } = true := by decide

theorem test_profiles_wf :
    (fixtureConfig partP0).wf = true ∧ (fixtureConfig partP1).wf = true ∧ (fixtureConfig partP2).wf = true := by decide

theorem test_ill_formed_configuration_has_no_step :
    refusalOf (step { withParams calm { Config.defaultParams with pollBound := 0 } with
    pending := [.host .initialise] }) = some .illFormedConfiguration := by decide

/-! ### Decoding: a word of each constructor, written out from its pattern (30_encoding.md R102); x and o bits are 0 -/

theorem test_decode_p0PgmEnable :
    decode .p0 [0b10101100#8, 0b01010011#8, 0b00000000#8, 0b00000000#8] = .ok (.p0PgmEnable) := by decide

theorem test_decode_p0ChipErase :
    decode .p0 [0b10101100#8, 0b10000000#8, 0b00000000#8, 0b00000000#8] = .ok (.p0ChipErase) := by decide

theorem test_decode_p0FlashReadLo :
    decode .p0 [0b00100000#8, 0b00101010#8, 0b01010101#8, 0b00000000#8] = .ok (.p0FlashReadLo 0x2A55) := by decide

theorem test_decode_p0FlashReadHi :
    decode .p0 [0b00101000#8, 0b00101010#8, 0b01010101#8, 0b00000000#8] = .ok (.p0FlashReadHi 0x2A55) := by decide

theorem test_decode_p0FlashLoadpageLo :
    decode .p0 [0b01000000#8, 0b00000000#8, 0b00010010#8, 0b10100101#8] = .ok (.p0FlashLoadpageLo 0x12 0xA5#8) := by decide

theorem test_decode_p0FlashLoadpageHi :
    decode .p0 [0b01001000#8, 0b00000000#8, 0b00010010#8, 0b01011010#8] = .ok (.p0FlashLoadpageHi 0x12 0x5A#8) := by decide

theorem test_decode_p0FlashWritepage :
    decode .p0 [0b01001100#8, 0b00101010#8, 0b01000000#8, 0b00000000#8] = .ok (.p0FlashWritepage 0x2A40) := by decide

theorem test_decode_p0EepromRead :
    decode .p0 [0b10100000#8, 0b00000010#8, 0b10100101#8, 0b00000000#8] = .ok (.p0EepromRead 0x2A5) := by decide

theorem test_decode_p0EepromWrite :
    decode .p0 [0b11000000#8, 0b00000001#8, 0b00010000#8, 0b01000010#8] = .ok (.p0EepromWrite 0x110 0x42#8) := by decide

theorem test_decode_p0SignatureRead :
    decode .p0 [0b00110000#8, 0b00000000#8, 0b00000010#8, 0b00000000#8] = .ok (.p0SignatureRead 2) := by decide

theorem test_decode_p0LfuseRead :
    decode .p0 [0b01010000#8, 0b00000000#8, 0b00000000#8, 0b00000000#8] = .ok (.p0LfuseRead) := by decide

theorem test_decode_p0LfuseWrite :
    decode .p0 [0b10101100#8, 0b10100000#8, 0b00000000#8, 0b01100010#8] = .ok (.p0LfuseWrite 0x62#8) := by decide

theorem test_decode_p0HfuseRead :
    decode .p0 [0b01011000#8, 0b00001000#8, 0b00000000#8, 0b00000000#8] = .ok (.p0HfuseRead) := by decide

theorem test_decode_p0HfuseWrite :
    decode .p0 [0b10101100#8, 0b10101000#8, 0b00000000#8, 0b11011001#8] = .ok (.p0HfuseWrite 0xD9#8) := by decide

theorem test_decode_p0EfuseRead :
    decode .p0 [0b01010000#8, 0b00001000#8, 0b00000000#8, 0b00000000#8] = .ok (.p0EfuseRead) := by decide

theorem test_decode_p0EfuseWrite :
    decode .p0 [0b10101100#8, 0b10100100#8, 0b00000000#8, 0b11111101#8] = .ok (.p0EfuseWrite 0xFD#8) := by decide

theorem test_decode_p0LockRead :
    decode .p0 [0b01011000#8, 0b00000000#8, 0b00000000#8, 0b00000000#8] = .ok (.p0LockRead) := by decide

theorem test_decode_p0LockWrite :
    decode .p0 [0b10101100#8, 0b11100000#8, 0b00000000#8, 0b11101100#8] = .ok (.p0LockWrite 0x2C#8) := by decide

theorem test_decode_p0CalibrationRead :
    decode .p0 [0b00111000#8, 0b00000000#8, 0b00000000#8, 0b00000000#8] = .ok (.p0CalibrationRead) := by decide

theorem test_decode_p1FlashLoadExtAddr :
    decode .p1 [0b01001101#8, 0b00000000#8, 0b00000001#8, 0b00000000#8] = .ok (.p1FlashLoadExtAddr 0x10000) := by decide

theorem test_decode_p1FlashReadLo :
    decode .p1 [0b00100000#8, 0b10101010#8, 0b01010101#8, 0b00000000#8] = .ok (.p1FlashReadLo 0xAA55) := by decide

theorem test_decode_p1FlashReadHi :
    decode .p1 [0b00101000#8, 0b10101010#8, 0b01010101#8, 0b00000000#8] = .ok (.p1FlashReadHi 0xAA55) := by decide

theorem test_decode_p1FlashLoadpageLo :
    decode .p1 [0b01000000#8, 0b00000000#8, 0b01010010#8, 0b00010001#8] = .ok (.p1FlashLoadpageLo 0x52 0x11#8) := by decide

theorem test_decode_p1FlashLoadpageHi :
    decode .p1 [0b01001000#8, 0b00000000#8, 0b01010010#8, 0b00100010#8] = .ok (.p1FlashLoadpageHi 0x52 0x22#8) := by decide

theorem test_decode_p1FlashWritepage :
    decode .p1 [0b01001100#8, 0b10101010#8, 0b10000000#8, 0b00000000#8] = .ok (.p1FlashWritepage 0xAA80) := by decide

theorem test_decode_p2PgmEnable :
    decode .p2 [0b10101100#8, 0b01010011#8, 0b00000000#8, 0b00000000#8] = .ok (.p2PgmEnable) := by decide

theorem test_decode_p2FlashReadLo :
    decode .p2 [0b00100000#8, 0b00000001#8, 0b01010101#8, 0b00000000#8] = .ok (.p2FlashReadLo 0x155) := by decide

theorem test_decode_p2FlashReadHi :
    decode .p2 [0b00101000#8, 0b00000001#8, 0b01010101#8, 0b00000000#8] = .ok (.p2FlashReadHi 0x155) := by decide

theorem test_decode_p2FlashWriteLo :
    decode .p2 [0b01000000#8, 0b00000001#8, 0b10101010#8, 0b11000011#8] = .ok (.p2FlashWriteLo 0x1AA 0xC3#8) := by decide

theorem test_decode_p2FlashWriteHi :
    decode .p2 [0b01001000#8, 0b00000001#8, 0b10101010#8, 0b00111100#8] = .ok (.p2FlashWriteHi 0x1AA 0x3C#8) := by decide

theorem test_decode_part_level_words_of_p1_and_p2 :
    decode .p1 [0xAC#8, 0x53#8, 0#8, 0#8] = .ok .p0PgmEnable ∧ decode .p1 [0xAC#8, 0x80#8, 0#8, 0#8] = .ok .p0ChipErase
    ∧ decode .p2 [0xAC#8, 0x80#8, 0#8, 0#8] = .ok .p0ChipErase := by decide

theorem test_decode_any_dont_care_bit :
    decode .p0 [0xAC#8, 0x9F#8, 0xFF#8, 0xFF#8] = .ok .p0ChipErase
      ∧ decode .p0 [0x40#8, 0x1F#8, 0xC0#8, 0x01#8] = .ok (.p0FlashLoadpageLo 0 1#8) := by decide

theorem test_decode_refuses_fixed_bit :
    decode .p0 [0x20#8, 0x40#8, 0#8, 0#8] = .error .noSuchOpcode
      ∧ decode .p0 [0x38#8, 0#8, 0x01#8, 0#8] = .error .noSuchOpcode
    ∧ decode .p0 [0xAC#8, 0xE0#8, 0#8, 0x3C#8] = .error .noSuchOpcode
    ∧ decode .p1 [0x4D#8, 0#8, 0x02#8, 0#8] = .error .noSuchOpcode := by decide

theorem test_decode_refuses_other_profile :
    decode .p1 [0xA0#8, 0#8, 0x10#8, 0#8] = .error .noSuchOpcode
      ∧ decode .p2 [0x4C#8, 0#8, 0#8, 0#8] = .error .noSuchOpcode
    ∧ decode .p0 [0x4D#8, 0#8, 0x01#8, 0#8] = .error .noSuchOpcode := by decide

theorem test_decode_refuses_length :
    decode .p0 [0xAC#8, 0x53#8, 0#8] = .error .notFourBytes
      ∧ decode .p0 [0xAC#8, 0x53#8, 0#8, 0#8, 0#8] = .error .notFourBytes := by decide

theorem test_undecodable_word_has_no_step :
    refusalOf (step { calm with pending := [.isp [0#8, 0#8, 0#8, 0#8]] }) = some (.undecodable .noSuchOpcode) := by decide

theorem test_table_word_of_p0 :
    decodeTableWord 32 0x20001200 = some (.p0FlashReadLo 0x12) ∧ tableProfile 32 0x20001200 = .p0 := by decide

theorem test_table_word_only_p1_sends :
    decodeTableWord 32 0x4D000100 = some (.p1FlashLoadExtAddr 0x10000)
      ∧ decodeTableWord 32 0x20C00000 = some (.p1FlashReadLo 0xC000) := by decide

/-! ### The encoder: the examples of 43_isp_codec.md Part 3 and the corner cases K1 to K10 -/

theorem test_encode_examples_p0_reads_and_pages : (encode (.p0PgmEnable)).bytes = [0xAC#8, 0x53#8, 0x00#8, 0x00#8]
    ∧ (encode (.p0ChipErase)).bytes = [0xAC#8, 0x80#8, 0x00#8, 0x00#8]
    ∧ (encode (.p0FlashReadLo 0x0012)).bytes = [0x20#8, 0x00#8, 0x12#8, 0x00#8]
    ∧ (encode (.p0FlashReadHi 0x0012)).bytes = [0x28#8, 0x00#8, 0x12#8, 0x00#8]
    ∧ (encode (.p0FlashLoadpageLo 0x12 0xA5#8)).bytes = [0x40#8, 0x00#8, 0x12#8, 0xA5#8]
    ∧ (encode (.p0FlashLoadpageHi 0x12 0x5A#8)).bytes = [0x48#8, 0x00#8, 0x12#8, 0x5A#8]
    ∧ (encode (.p0FlashWritepage 0x0040)).bytes = [0x4C#8, 0x00#8, 0x40#8, 0x00#8]
    ∧ (encode (.p0EepromRead 0x3FF)).bytes = [0xA0#8, 0x03#8, 0xFF#8, 0x00#8]
    ∧ (encode (.p0EepromWrite 0x010 0x42#8)).bytes = [0xC0#8, 0x00#8, 0x10#8, 0x42#8]
    ∧ (encode (.p0SignatureRead 2)).bytes = [0x30#8, 0x00#8, 0x02#8, 0x00#8] := by decide

theorem test_encode_examples_p0_fuses : (encode (.p0LfuseRead)).bytes = [0x50#8, 0x00#8, 0x00#8, 0x00#8]
    ∧ (encode (.p0LfuseWrite 0xFF#8)).bytes = [0xAC#8, 0xA0#8, 0x00#8, 0xFF#8]
    ∧ (encode (.p0HfuseRead)).bytes = [0x58#8, 0x08#8, 0x00#8, 0x00#8]
    ∧ (encode (.p0HfuseWrite 0xD9#8)).bytes = [0xAC#8, 0xA8#8, 0x00#8, 0xD9#8]
    ∧ (encode (.p0EfuseRead)).bytes = [0x50#8, 0x08#8, 0x00#8, 0x00#8]
    ∧ (encode (.p0EfuseWrite 0xFD#8)).bytes = [0xAC#8, 0xA4#8, 0x00#8, 0xFD#8]
    ∧ (encode (.p0LockRead)).bytes = [0x58#8, 0x00#8, 0x00#8, 0x00#8]
    ∧ (encode (.p0LockWrite 0x3C#8)).bytes = [0xAC#8, 0xE0#8, 0x00#8, 0xFC#8]
    ∧ (encode (.p0CalibrationRead)).bytes = [0x38#8, 0x00#8, 0x00#8, 0x00#8] := by decide

theorem test_encode_examples_p1_p2 : (encode (.p1FlashLoadExtAddr 0x10000)).bytes = [0x4D#8, 0x00#8, 0x01#8, 0x00#8]
    ∧ (encode (.p1FlashReadLo 0x10001)).bytes = [0x20#8, 0x00#8, 0x01#8, 0x00#8]
    ∧ (encode (.p1FlashReadHi 0x10001)).bytes = [0x28#8, 0x00#8, 0x01#8, 0x00#8]
    ∧ (encode (.p1FlashLoadpageLo 0x7F 0x11#8)).bytes = [0x40#8, 0x00#8, 0x7F#8, 0x11#8]
    ∧ (encode (.p1FlashLoadpageHi 0x80 0x22#8)).bytes = [0x48#8, 0x00#8, 0x00#8, 0x22#8]
    ∧ (encode (.p1FlashWritepage 0xFF80)).bytes = [0x4C#8, 0xFF#8, 0x80#8, 0x00#8]
    ∧ (encode (.p2PgmEnable)).bytes = [0xAC#8, 0x53#8, 0x00#8, 0x00#8]
    ∧ (encode (.p2FlashReadLo 0x1FF)).bytes = [0x20#8, 0x01#8, 0xFF#8, 0x00#8]
    ∧ (encode (.p2FlashReadHi 0x100)).bytes = [0x28#8, 0x01#8, 0x00#8, 0x00#8]
    ∧ (encode (.p2FlashWriteLo 0x1FF 0xC3#8)).bytes = [0x40#8, 0x01#8, 0xFF#8, 0xC3#8]
    ∧ (encode (.p2FlashWriteHi 0x000 0x3C#8)).bytes = [0x48#8, 0x00#8, 0x00#8, 0x3C#8] := by decide

theorem test_encode_drops_unmapped_bits : (encode (.p0FlashReadLo 0x7FFF)).bytes = [0x20#8, 0x3F#8, 0xFF#8, 0x00#8]
    ∧ (encode (.p0FlashLoadpageLo 0x3FFF 0x00#8)).bytes = [0x40#8, 0x00#8, 0x3F#8, 0x00#8]
    ∧ (encode (.p0FlashLoadpageLo 0x0040 0x77#8)).bytes = [0x40#8, 0x00#8, 0x00#8, 0x77#8]
    ∧ (encode (.p0FlashWritepage 0x3FFF)).bytes = [0x4C#8, 0x3F#8, 0xC0#8, 0x00#8]
    ∧ (encode (.p0EepromRead 0x7FF)).bytes = [0xA0#8, 0x03#8, 0xFF#8, 0x00#8]
    ∧ (encode (.p0SignatureRead 3)).bytes = [0x30#8, 0x00#8, 0x03#8, 0x00#8]
    ∧ (encode (.p2FlashReadLo 0x3FF)).bytes = [0x20#8, 0x01#8, 0xFF#8, 0x00#8]
    ∧ (encode (.p1FlashWritepage 0x1FFFF)).bytes = [0x4C#8, 0xFF#8, 0x80#8, 0x00#8]
    ∧ (encode (.p0LockWrite 0x00#8)).bytes = [0xAC#8, 0xE0#8, 0x00#8, 0xC0#8]
    ∧ (encode (.p1FlashLoadExtAddr 0x0FFFF)).bytes = [0x4D#8, 0x00#8, 0x00#8, 0x00#8] := by decide

theorem test_encode_lock_of_ff : (encode (.p0LockWrite 0xFF#8)).bytes = [0xAC#8, 0xE0#8, 0x00#8, 0xFF#8] := by decide

theorem test_extract_output_takes_byte_3 :
    extractOutput tplP0FlashReadLo ⟨0x00#8, 0x20#8, 0x00#8, 0x0C#8⟩ = 0x0C#8 := by decide

theorem test_echo_examines_byte_2_only :
    echoOk (2, 0x53#8) ⟨0x00#8, 0xAC#8, 0x53#8, 0x00#8⟩ = true
      ∧ echoOk (2, 0x53#8) ⟨0xFF#8, 0x00#8, 0x53#8, 0xFF#8⟩ = true
    ∧ echoOk (2, 0x53#8) ⟨0x00#8, 0x2C#8, 0x52#8, 0x00#8⟩ = false := by decide

/-! ### ISP instructions: what each puts on the wire, and what it returns for the answer shown (R104, Part 3) -/

theorem test_exec_p0PgmEnable :
    let t := nextOf (exec (.p0PgmEnable) (answering calm [0x00#8, 0xAC#8, 0x53#8, 0x00#8]))
    sent t = [0xAC#8, 0x53#8, 0x00#8, 0x00#8] ∧ t.results = [.enableAttempt (some true)] := by decide

theorem test_exec_p0ChipErase :
    let t := nextOf (exec (.p0ChipErase) (answering calm [0x00#8, 0xAC#8, 0x80#8, 0x00#8]))
    sent t = [0xAC#8, 0x80#8, 0x00#8, 0x00#8] ∧ t.results = [.ok] := by decide

theorem test_exec_p0FlashReadLo :
    let t := nextOf (exec (.p0FlashReadLo 0x0012) (answering calm [0x00#8, 0x20#8, 0x00#8, 0x0C#8]))
    sent t = [0x20#8, 0x00#8, 0x12#8, 0x00#8] ∧ t.results = [.byte 0x0C#8] := by decide

theorem test_exec_p0FlashReadHi :
    let t := nextOf (exec (.p0FlashReadHi 0x0012) (answering calm [0x00#8, 0x28#8, 0x00#8, 0x94#8]))
    sent t = [0x28#8, 0x00#8, 0x12#8, 0x00#8] ∧ t.results = [.byte 0x94#8] := by decide

theorem test_exec_p0FlashLoadpageLo :
    let t := nextOf (exec (.p0FlashLoadpageLo 0x12 0xA5#8) (answering calm [0x00#8, 0x40#8, 0x00#8, 0x12#8]))
    sent t = [0x40#8, 0x00#8, 0x12#8, 0xA5#8] ∧ t.results = [.ok] := by decide

theorem test_exec_p0FlashLoadpageHi :
    let t := nextOf (exec (.p0FlashLoadpageHi 0x12 0x5A#8) (answering calm [0x00#8, 0x48#8, 0x00#8, 0x12#8]))
    sent t = [0x48#8, 0x00#8, 0x12#8, 0x5A#8] ∧ t.results = [.ok] := by decide

theorem test_exec_p0FlashWritepage :
    let t := nextOf (exec (.p0FlashWritepage 0x0040) (answering calm [0x00#8, 0x4C#8, 0x00#8, 0x40#8]))
    sent t = [0x4C#8, 0x00#8, 0x40#8, 0x00#8] ∧ t.results = [.ok] := by decide

theorem test_exec_p0EepromRead :
    let t := nextOf (exec (.p0EepromRead 0x3FF) (answering calm [0x00#8, 0xA0#8, 0x03#8, 0x42#8]))
    sent t = [0xA0#8, 0x03#8, 0xFF#8, 0x00#8] ∧ t.results = [.byte 0x42#8] := by decide

theorem test_exec_p0EepromWrite :
    let t := nextOf (exec (.p0EepromWrite 0x010 0x42#8) (answering calm [0x00#8, 0xC0#8, 0x00#8, 0x10#8]))
    sent t = [0xC0#8, 0x00#8, 0x10#8, 0x42#8] ∧ t.results = [.ok] := by decide

theorem test_exec_p0SignatureRead :
    let t := nextOf (exec (.p0SignatureRead 2) (answering calm [0x00#8, 0x30#8, 0x00#8, 0x0F#8]))
    sent t = [0x30#8, 0x00#8, 0x02#8, 0x00#8] ∧ t.results = [.byte 0x0F#8] := by decide

theorem test_exec_p0LfuseRead :
    let t := nextOf (exec (.p0LfuseRead) (answering calm [0x00#8, 0x50#8, 0x00#8, 0x62#8]))
    sent t = [0x50#8, 0x00#8, 0x00#8, 0x00#8] ∧ t.results = [.byte 0x62#8] := by decide

theorem test_exec_p0LfuseWrite :
    let t := nextOf (exec (.p0LfuseWrite 0xFF#8) (answering calm [0x00#8, 0xAC#8, 0xA0#8, 0x00#8]))
    sent t = [0xAC#8, 0xA0#8, 0x00#8, 0xFF#8] ∧ t.results = [.ok] := by decide

theorem test_exec_p0HfuseRead :
    let t := nextOf (exec (.p0HfuseRead) (answering calm [0x00#8, 0x58#8, 0x08#8, 0xD9#8]))
    sent t = [0x58#8, 0x08#8, 0x00#8, 0x00#8] ∧ t.results = [.byte 0xD9#8] := by decide

theorem test_exec_p0HfuseWrite :
    let t := nextOf (exec (.p0HfuseWrite 0xD9#8) (answering calm [0x00#8, 0xAC#8, 0xA8#8, 0x00#8]))
    sent t = [0xAC#8, 0xA8#8, 0x00#8, 0xD9#8] ∧ t.results = [.ok] := by decide

theorem test_exec_p0EfuseRead :
    let t := nextOf (exec (.p0EfuseRead) (answering calm [0x00#8, 0x50#8, 0x08#8, 0xFF#8]))
    sent t = [0x50#8, 0x08#8, 0x00#8, 0x00#8] ∧ t.results = [.byte 0xFF#8] := by decide

theorem test_exec_p0EfuseWrite :
    let t := nextOf (exec (.p0EfuseWrite 0xFD#8) (answering calm [0x00#8, 0xAC#8, 0xA4#8, 0x00#8]))
    sent t = [0xAC#8, 0xA4#8, 0x00#8, 0xFD#8] ∧ t.results = [.ok] := by decide

theorem test_exec_p0LockRead :
    let t := nextOf (exec (.p0LockRead) (answering calm [0x00#8, 0x58#8, 0x00#8, 0xFC#8]))
    sent t = [0x58#8, 0x00#8, 0x00#8, 0x00#8] ∧ t.results = [.byte 0xFC#8] := by decide

theorem test_exec_p0LockWrite :
    let t := nextOf (exec (.p0LockWrite 0x3C#8) (answering calm [0x00#8, 0xAC#8, 0xE0#8, 0x00#8]))
    sent t = [0xAC#8, 0xE0#8, 0x00#8, 0xFC#8] ∧ t.results = [.ok] := by decide

theorem test_exec_p0CalibrationRead :
    let t := nextOf (exec (.p0CalibrationRead) (answering calm [0x00#8, 0x38#8, 0x00#8, 0x9A#8]))
    sent t = [0x38#8, 0x00#8, 0x00#8, 0x00#8] ∧ t.results = [.byte 0x9A#8] := by decide

theorem test_exec_p1FlashLoadExtAddr :
    let t := nextOf (exec (.p1FlashLoadExtAddr 0x10000) (answering calm [0x00#8, 0x4D#8, 0x00#8, 0x01#8]))
    sent t = [0x4D#8, 0x00#8, 0x01#8, 0x00#8] ∧ t.results = [.ok] ∧ t.extLast = some 1 := by decide

theorem test_exec_p1FlashReadLo :
    let t := nextOf (exec (.p1FlashReadLo 0x10001) (answering calm [0x00#8, 0x20#8, 0x00#8, 0x03#8]))
    sent t = [0x20#8, 0x00#8, 0x01#8, 0x00#8] ∧ t.results = [.byte 0x03#8] := by decide

theorem test_exec_p1FlashReadHi :
    let t := nextOf (exec (.p1FlashReadHi 0x10001) (answering calm [0x00#8, 0x28#8, 0x00#8, 0x04#8]))
    sent t = [0x28#8, 0x00#8, 0x01#8, 0x00#8] ∧ t.results = [.byte 0x04#8] := by decide

theorem test_exec_p1FlashLoadpageLo :
    let t := nextOf (exec (.p1FlashLoadpageLo 0x7F 0x11#8) (answering calm [0x00#8, 0x40#8, 0x00#8, 0x7F#8]))
    sent t = [0x40#8, 0x00#8, 0x7F#8, 0x11#8] ∧ t.results = [.ok] := by decide

theorem test_exec_p1FlashLoadpageHi :
    let t := nextOf (exec (.p1FlashLoadpageHi 0x80 0x22#8) (answering calm [0x00#8, 0x48#8, 0x00#8, 0x00#8]))
    sent t = [0x48#8, 0x00#8, 0x00#8, 0x22#8] ∧ t.results = [.ok] := by decide

theorem test_exec_p1FlashWritepage :
    let t := nextOf (exec (.p1FlashWritepage 0xFF80) (answering calm [0x00#8, 0x4C#8, 0xFF#8, 0x80#8]))
    sent t = [0x4C#8, 0xFF#8, 0x80#8, 0x00#8] ∧ t.results = [.ok] := by decide

theorem test_exec_p2PgmEnable :
    let t := nextOf (exec (.p2PgmEnable) (answering calm [0x00#8, 0xAC#8, 0x00#8, 0x00#8]))
    sent t = [0xAC#8, 0x53#8, 0x00#8, 0x00#8] ∧ t.results = [.enableAttempt none] := by decide

theorem test_exec_p2FlashReadLo :
    let t := nextOf (exec (.p2FlashReadLo 0x1FF) (answering calm [0x00#8, 0x20#8, 0x01#8, 0x0C#8]))
    sent t = [0x20#8, 0x01#8, 0xFF#8, 0x00#8] ∧ t.results = [.byte 0x0C#8] := by decide

theorem test_exec_p2FlashReadHi :
    let t := nextOf (exec (.p2FlashReadHi 0x100) (answering calm [0x00#8, 0x28#8, 0x01#8, 0x94#8]))
    sent t = [0x28#8, 0x01#8, 0x00#8, 0x00#8] ∧ t.results = [.byte 0x94#8] := by decide

theorem test_exec_p2FlashWriteLo :
    let t := nextOf (exec (.p2FlashWriteLo 0x1FF 0xC3#8) (answering calm [0x00#8, 0x40#8, 0x01#8, 0xFF#8]))
    sent t = [0x40#8, 0x01#8, 0xFF#8, 0xC3#8] ∧ t.results = [.ok] := by decide

theorem test_exec_p2FlashWriteHi :
    let t := nextOf (exec (.p2FlashWriteHi 0x000 0x3C#8) (answering calm [0x00#8, 0x48#8, 0x00#8, 0x00#8]))
    sent t = [0x48#8, 0x00#8, 0x00#8, 0x3C#8] ∧ t.results = [.ok] := by decide

theorem test_failed_echo_is_no_error :
    (nextOf (exec .p0PgmEnable (answering calm [0x00#8, 0x2C#8, 0x52#8, 0x00#8]))).results = [.enableAttempt (some false)] := by
  decide

/-- B4 at an ISP word: the sixth call fails, five were performed. -/
theorem test_exec_transport_error :
    let t := nextOf (exec .p0LfuseRead
      { answering calm [0x00#8] with ioFaults := List.replicate 5 none ++ [some 7], pageVals := [(3, 1#8)] })
    t.results = [.error (.transport 7)] ∧ t.trace.length = 5 ∧ t.pageVals = [] := by decide

/-- R135: an unassigned pin of the exchange is reported before it. -/
theorem test_exec_unassigned_pin :
    let t := nextOf (exec .p0LfuseRead (withPins calm { allPinsAssigned with sdi := ⟨none, false⟩ }))
    t.results = [.error (.unassignedPin .sdi)] ∧ t.trace = [] ∧ t.ioDraws = 0 := by decide

/-- R8: AddrFieldBits is an argument (log 17). -/
theorem test_exec_window_of_other_width :
    (nextOf (exec (.p1FlashLoadExtAddr 0x10000)
      (withParams (answering calm [0#8]) { Config.defaultParams with addrFieldBits := 8 }))).extLast = some 0x100 := by decide

/-! ### The bit engines: S1, B1, T1 to T14 -/

/-- S1.1: the loopback gives the answer shown. -/
theorem test_loopback_s1_1 :
    let t := nextOf (execEngineCall (.transmitByte 0xAC#8) (answering { calm with lvlSdo := false } [0x56#8]))
    loopbackAnswers false t.trace = true ∧ t.results = [.byte 0x56#8] ∧ sent t = [0xAC#8] ∧ t.lvlSdo = false := by decide

/-- S1.2: the loopback gives the answer shown. -/
theorem test_loopback_s1_2 :
    let t := nextOf (execEngineCall (.transmitByte 0xAC#8) (answering { calm with lvlSdo := true } [0xD6#8]))
    loopbackAnswers true t.trace = true ∧ t.results = [.byte 0xD6#8] ∧ sent t = [0xAC#8] ∧ t.lvlSdo = false := by decide

/-- S1.4. -/
theorem test_loopback_s1_4 :
    let t := nextOf (execEngineCall (.transmitCmd ⟨0xAC#8, 0x53#8, 0x00#8, 0x00#8⟩) (answering calm [0x56#8, 0x29#8, 0x80#8, 0x00#8]))
    loopbackAnswers false t.trace = true ∧ t.results = [.response ⟨0x56#8, 0x29#8, 0x80#8, 0x00#8⟩]
      ∧ t.lvlSck = false := by decide

/-- S1.5. -/
theorem test_loopback_s1_5 :
    let t := nextOf (execEngineCall (.transmitCmd ⟨0x12#8, 0x34#8, 0x56#8, 0x78#8⟩) (answering calm [0x09#8, 0x1A#8, 0x2B#8, 0x3C#8]))
    loopbackAnswers false t.trace = true := by decide

/-- S1.6, B3: the answer shown is T0's. -/
theorem test_target_s1_6 :
    let t := nextOf (execEngineCall (.transmitCmd ⟨0xAC#8, 0x53#8, 0x00#8, 0x00#8⟩) (answering calm [0x00#8, 0xAC#8, 0x53#8, 0x00#8]))
    (targetT0 .p0 []).answers t.trace = true := by decide

/-- R71, R376: a plain T0 that is out of phase delays every byte by 8 clocks: at the offsets 9, 16 and 31 of a frame of
zeros; and after 8 clocks of `Set` edges with `Sdo` at 1, also with a ninth clock by `Pulse`, where byte 0 is FF. In phase
byte 0 is 00. A rising edge alone is no clock. -/
theorem test_target_out_of_phase :
    let t := nextOf (execEngineCall (.transmitCmd ⟨0xAC#8, 0x53#8, 0x0F#8, 0x00#8⟩) (answering calm [0x00#8, 0xAC#8, 0x53#8, 0x0F#8]))
    let u := nextOf (execEngineCall (.transmitCmd ⟨0xAC#8, 0x53#8, 0x00#8, 0x00#8⟩) (answering calm [0xFF#8, 0xAC#8, 0x53#8, 0x00#8]))
    let edges : List Event := [.set .sdo true] ++ (List.replicate 8 [Event.set .sck true, .set .sck false]).flatten
    (∀ o ∈ [9, 16, 31], ((targetT0 .p0 []).offset o).answers t.trace = true)
    ∧ ((targetT0 .p0 []).after edges).count = 8 ∧ ((targetT0 .p0 []).after edges).answers u.trace = true
    ∧ (targetT0 .p0 []).answers u.trace = false
    ∧ ((targetT0 .p0 []).after (edges ++ [.pulse .sck, .set .sck true])).count = 9
    ∧ ((targetT0 .p0 []).after (edges ++ [.pulse .sck])).answers u.trace = true := by decide

/-- R71: a clock that a preamble makes by `Set` shifts T0s(0) as a pulse would. -/
theorem test_target_counts_set_edges :
    ((targetT0s .p0 0 []).after [.set .sck true, .set .sck false]) = targetT0s .p0 1 [] := by decide

/-- B1. -/
theorem test_transmit_byte_order :
    let t := nextOf (execEngineCall (.transmitByte 0xAC#8) (answering calm [0x56#8]))
    t.trace = byteEvents 0xAC#8 0x56#8
      ∧ t.trace.take 6 = [.get .sdi false, .set .sdo true, .pulse .sck, .get .sdi true, .set .sdo false, .pulse .sck] := by decide

/-- B4: the 5th operation of `transmit_byte` fails. -/
theorem test_transmit_byte_transport_error :
    let t := nextOf (execEngineCall (.transmitByte 0xAC#8)
      { answering calm [0x56#8] with ioFaults := List.replicate 4 none ++ [some 9] })
    t.trace = (byteEvents 0xAC#8 0x56#8).take 4 ∧ t.results = [.error (.transport 9)] ∧ t.lvlSdo = true := by decide

/-- R31, R130, R131: an inverted pin's line carries the other level, and its samples are inverted back. -/
theorem test_inverted_pins :
    let c := { fixtureConfig partP0 with pins := { allPinsAssigned with sdo := ⟨some 1, true⟩, sdi := ⟨some 2, true⟩ } }
    let t := nextOf (execEngineCall (.transmitByte 0x01#8) { answering calm [0xA9#8] with cfg := c })
    t.results = [.byte 0x56#8] ∧ t.lvl .sdo = some true ∧ t.line .sdo = some false := by decide

/-- T1. -/
theorem test_tpi_frame_t1 :
    let t := nextOf (execEngineCall (.txByte 0x00#8) (calm))
    t.trace = tpiTxEvents ([0, 0, 0, 0, 0, 0, 0, 0, 0, 0, 1, 1].map (· == 1)) ∧ t.lvlSdo = true
      ∧ t.results = [.ok] := by decide

/-- T2. -/
theorem test_tpi_frame_t2 :
    let t := nextOf (execEngineCall (.txByte 0xFF#8) (calm))
    t.trace = tpiTxEvents ([0, 1, 1, 1, 1, 1, 1, 1, 1, 0, 1, 1].map (· == 1)) ∧ t.lvlSdo = true
      ∧ t.results = [.ok] := by decide

/-- T3. -/
theorem test_tpi_frame_t3 :
    let t := nextOf (execEngineCall (.txByte 0x01#8) (calm))
    t.trace = tpiTxEvents ([0, 1, 0, 0, 0, 0, 0, 0, 0, 1, 1, 1].map (· == 1)) ∧ t.lvlSdo = true
      ∧ t.results = [.ok] := by decide

/-- T4. -/
theorem test_tpi_frame_t4 :
    let t := nextOf (execEngineCall (.txByte 0x53#8) (calm))
    t.trace = tpiTxEvents ([0, 1, 1, 0, 0, 1, 0, 1, 0, 0, 1, 1].map (· == 1)) ∧ t.lvlSdo = true
      ∧ t.results = [.ok] := by decide

/-- T5. -/
theorem test_tpi_frame_t5 :
    let t := nextOf (execEngineCall (.txByte 0x80#8) (calm))
    t.trace = tpiTxEvents ([0, 0, 0, 0, 0, 0, 0, 0, 1, 1, 1, 1].map (· == 1)) ∧ t.lvlSdo = true
      ∧ t.results = [.ok] := by decide

/-- T6. -/
theorem test_tpi_receive_t6 :
    let t := nextOf (execEngineCall (.rxByte) (sampling calm [1, 1, 0, 1, 1, 0, 0, 1, 0, 1, 0, 0, 1, 1]))
    t.results = [.byte 0x53#8] ∧ pulses t.trace = 14 ∧ t.trace.head? = some (.set .sdo true)
      ∧ t.lvlSdo = true := by decide

/-- T7. -/
theorem test_tpi_receive_t7 :
    let t := nextOf (execEngineCall (.rxByte) (sampling calm [1, 1, 1, 1, 1, 1, 1, 1, 1, 1]))
    t.results = [.error (.frame .noStartBit)] ∧ pulses t.trace = 10 ∧ t.trace.head? = some (.set .sdo true)
      ∧ t.lvlSdo = true := by decide

/-- T8. -/
theorem test_tpi_receive_t8 :
    let t := nextOf (execEngineCall (.rxByte) (sampling calm [1, 1, 1, 1, 1, 1, 1, 1, 1, 0, 1, 0, 0, 0, 0, 0, 0, 0, 1, 1, 1]))
    t.results = [.byte 0x01#8] ∧ pulses t.trace = 21 ∧ t.trace.head? = some (.set .sdo true)
      ∧ t.lvlSdo = true := by decide

/-- T9. -/
theorem test_tpi_receive_t9 :
    let t := nextOf (execEngineCall (.rxByte) (sampling calm [0, 0, 1, 0, 0, 1, 0, 1, 0, 0]))
    t.results = [.error (.frame (.parityMismatch 0x52#8 false))] ∧ pulses t.trace = 10
      ∧ t.trace.head? = some (.set .sdo true) ∧ t.lvlSdo = true := by decide

/-- T10. -/
theorem test_tpi_receive_t10 :
    let t := nextOf (execEngineCall (.rxByte) (sampling calm [0, 1, 1, 0, 0, 1, 0, 1, 0, 1]))
    t.results = [.error (.frame (.parityMismatch 0x53#8 true))] ∧ pulses t.trace = 10
      ∧ t.trace.head? = some (.set .sdo true) ∧ t.lvlSdo = true := by decide

/-- T11. -/
theorem test_tpi_receive_t11 :
    let t := nextOf (execEngineCall (.rxByte) (sampling calm [0, 1, 1, 0, 0, 1, 0, 1, 0, 0, 0, 1]))
    t.results = [.error (.frame (.framingError false true))] ∧ pulses t.trace = 12
      ∧ t.trace.head? = some (.set .sdo true) ∧ t.lvlSdo = true := by decide

/-- T12. -/
theorem test_tpi_receive_t12 :
    let t := nextOf (execEngineCall (.rxByte) (sampling calm [0, 1, 1, 0, 0, 1, 0, 1, 0, 0, 1, 0]))
    t.results = [.error (.frame (.framingError true false))] ∧ pulses t.trace = 12
      ∧ t.trace.head? = some (.set .sdo true) ∧ t.lvlSdo = true := by decide

/-- T13. -/
theorem test_tpi_receive_t13 :
    let t := nextOf (execEngineCall (.rxByte) (sampling calm [0, 0, 0, 0, 0, 0, 0, 0, 0, 0, 0, 0, 0, 0]))
    t.results = [.error (.frame (.framingError false false))] ∧ pulses t.trace = 12
      ∧ t.trace.head? = some (.set .sdo true) ∧ t.lvlSdo = true := by decide

/-- T14, program 9. -/
theorem test_tpi_command_t14 :
    let t := nextOf (execEngineCall (.cmdTpi [0x80#8] 1) (sampling calm [1, 1, 0, 1, 1, 0, 0, 1, 0, 1, 0, 0, 1, 1]))
    t.results = [.bytes [0x53#8]] ∧ pulses t.trace = 26 ∧ t.lvlSdo = true := by decide

/-- R177: the second `rx_byte` finds no start bit, and no third is made. -/
theorem test_tpi_command_later_frame_error :
    let t := nextOf (execEngineCall (.cmdTpi [] 3)
      (sampling calm [0, 1, 1, 0, 0, 1, 0, 1, 0, 0, 1, 1, 1, 1, 1, 1, 1, 1, 1, 1, 1, 1]))
    t.results = [.error (.frame .noStartBit)] ∧ pulses t.trace = 22 := by decide

/-- R135: an engine call's pins are those it operates; `tx_byte` does not sample. -/
theorem test_engine_unassigned_pin :
    let s := withPins calm { allPinsAssigned with sdi := ⟨none, false⟩ }
    (nextOf (execEngineCall (.cmdTpi [0x80#8] 1) s)).results = [.error (.unassignedPin .sdi)]
    ∧ (nextOf (execEngineCall (.cmdTpi [0x80#8] 1) s)).trace = []
    ∧ (nextOf (execEngineCall (.txByte 0x80#8) s)).results = [.ok] := by decide

/-- R177, corner case. -/
theorem test_tpi_command_of_nothing :
    let t := nextOf (execEngineCall (.cmdTpi [] 0) (calm))
    t.results = [.bytes []] ∧ t.trace = [] := by decide

/-! ### Program enable: E1, E3, E6, E8, S7, X1, X2, X6 -/

/-- E1. -/
theorem test_initialise_e1 :
    let t := nextOf (execHostCall (.initialise) (answering calm [0x00#8, 0xAC#8, 0x53#8, 0x00#8]))
    t.results = [.ok] ∧ t.fsm = .enabled ∧ t.peOk = true ∧ t.resyncTries = 0
      ∧ t.trace = cmdEvents ⟨0xAC#8, 0x53#8, 0#8, 0#8⟩ ⟨0#8, 0xAC#8, 0x53#8, 0#8⟩ := by decide

/-- The session right after one failed attempt and one success, on T0s(31). -/
def afterE4 : State :=
  nextOf (execHostCall .initialise { calm with
    sdiIn := [0x00#8, 0x00#8, 0x00#8, 0x00#8, 0x00#8, 0x00#8, 0x53#8, 0x00#8].flatMap msbFirst })

/-- E4: one failure, its extra pulse, then success; the answers shown are T0s(31)'s. -/
theorem test_initialise_e4 :
    afterE4.results = [.ok] ∧ afterE4.resyncTries = 1 ∧ afterE4.peOk = true ∧ pulses afterE4.trace = 65
    ∧ (targetT0s .p0 31 []).answers afterE4.trace = true := by decide

/-- S7.3. -/
theorem test_initialise_s7_3 :
    let t := nextOf (execHostCall (.initialise) (answering (withParams calm { Config.defaultParams with resyncBound := 1 }) [0x00#8, 0x00#8, 0x00#8, 0x00#8]))
    t.results = [.error (.resyncExhausted 1)] ∧ t.fsm = .enabled ∧ t.peOk = false ∧ t.resyncTries = 1
      ∧ pulses t.trace = 33 := by decide

/-- E8. -/
theorem test_initialise_e8 :
    let t := nextOf (execHostCall (.initialise) (answering (withPart calm partP2) [0x00#8, 0x00#8, 0x00#8, 0x00#8]))
    t.results = [.ok] ∧ t.peOk = true ∧ pulses t.trace = 32 ∧ sent t = [0xAC#8, 0x53#8, 0x00#8, 0x00#8] := by decide

/-- X1. -/
theorem test_initialise_x1 :
    let t := nextOf (execHostCall (.initialise) ({ calm with cfg := { calm.cfg with pins := { allPinsAssigned with sdi := ⟨none, false⟩ } } }))
    t.results = [.error (.unassignedPin .sdi)] ∧ t.fsm = .disconnected ∧ t.trace = [] := by decide

/-- X2. -/
theorem test_initialise_x2 :
    let t := nextOf (execHostCall (.initialise) ({ calm with cfg := { calm.cfg with pins := { allPinsAssigned with sdo := ⟨none, false⟩, sdi := ⟨none, false⟩ } } }))
    t.results = [.error (.unassignedPin .sdo)] := by decide

/-- X6. -/
theorem test_initialise_x6 :
    let t := nextOf (execHostCall (.initialise) ({ answering calm [0x00#8] with ioFaults := List.replicate 4 none ++ [some 3] }))
    t.results = [.error (.transport 3)] ∧ t.fsm = .disconnected ∧ t.peOk = false := by decide

/-- R372: the preamble is performed before the first PGM_ENABLE, and the level it leaves on `Reset` is held (R130). -/
theorem test_preamble :
    let c := { fixtureConfig partP0 with initPreamble := [.set .reset true, .pulse .sck, .delay 20] }
    let t := nextOf (execHostCall .initialise { answering calm [0x00#8, 0xAC#8, 0x53#8, 0x00#8] with cfg := c })
    t.trace.take 3 = [.set .reset true, .pulse .sck, .delay 20] ∧ t.lvl .reset = some true
      ∧ t.results = [.ok] := by decide

/-- R335, R312 (b): a transport error inside a preamble that has driven `Sck` active (log 21). -/
theorem test_preamble_transport_error :
    let t := nextOf (execHostCall .initialise { withOps calm [.set .sck true, .delay 20, .set .sck false] [] with
      ioFaults := [none, some 3] })
    t.results = [.error (.transport 3)] ∧ t.lvlSck = false ∧ t.fsm = .disconnected
      ∧ t.trace = [.set .sck true] := by decide

/-- X4, X5. -/
theorem test_refused_states :
    refusalOf (execHostCall (.readMemory .signature 0 1) calm) = some (.illegalState .disconnected)
    ∧ refusalOf (execHostCall .initialise enabled) = some (.illegalState .enabled)
    ∧ refusalOf (execHostCall .disable { calm with fsm := .disabled }) = some (.illegalState .disabled) := by decide

/-- R5, R311; and the state is tested before the range (R338). -/
theorem test_refused_range :
    refusalOf (execHostCall (.readMemory .signature 2 2) enabled) = some (.outOfRange .signature 2 2)
    ∧ refusalOf (execHostCall (.writeMemory .flash 32767 [0#8, 0#8]) enabled) = some (.outOfRange .flash 32767 2)
    ∧ refusalOf (execHostCall (.readMemory .signature 2 2) calm) = some (.illegalState .disconnected) := by decide

/-! ### Reading: R1, R3, R4, R6, X8 -/

/-- R1. -/
theorem test_read_signature_r1 :
    let t := nextOf (execHostCall (.readMemory .signature 0 3) (answering enabled [0x00#8, 0x30#8, 0x00#8, 0x1E#8, 0x00#8, 0x30#8, 0x00#8, 0x95#8, 0x00#8, 0x30#8, 0x00#8, 0x0F#8]))
    sent t = [0x30#8, 0x00#8, 0x00#8, 0x00#8, 0x30#8, 0x00#8, 0x01#8, 0x00#8, 0x30#8, 0x00#8, 0x02#8, 0x00#8]
      ∧ t.results = [.bytes [0x1E#8, 0x95#8, 0x0F#8]]
      ∧ remarks t = [.progress 1 3, .progress 2 3, .progress 3 3] := by decide

/-- R3. -/
theorem test_read_across_words_r3 :
    let t := nextOf (execHostCall (.readMemory .flash 0x7F 2) (answering enabled [0x00#8, 0x28#8, 0x00#8, 0x94#8, 0x00#8, 0x20#8, 0x00#8, 0x0C#8]))
    sent t = [0x28#8, 0x00#8, 0x3F#8, 0x00#8, 0x20#8, 0x00#8, 0x40#8, 0x00#8]
      ∧ t.results = [.bytes [0x94#8, 0x0C#8]] := by decide

/-- R4, its two middle bytes: the window changes between them. -/
theorem test_read_across_windows_r4 :
    let t := nextOf (execHostCall (.readMemory .flash 0x1FFFF 2) (answering (withPart enabled partP1) [0x00#8, 0x4D#8, 0x00#8, 0x00#8, 0x00#8, 0x28#8, 0xFF#8, 0x02#8, 0x00#8, 0x4D#8, 0x00#8, 0x01#8, 0x00#8, 0x20#8, 0x00#8, 0x03#8]))
    sent t = [0x4D#8, 0x00#8, 0x00#8, 0x00#8, 0x28#8, 0xFF#8, 0xFF#8, 0x00#8, 0x4D#8, 0x00#8, 0x01#8, 0x00#8, 0x20#8, 0x00#8, 0x00#8, 0x00#8]
      ∧ t.results = [.bytes [0x02#8, 0x03#8]] ∧ t.extLast = some 1 := by decide

/-- R6. -/
theorem test_read_nothing_r6 :
    let t := nextOf (execHostCall (.readMemory .eeprom 0x10 0) (enabled))
    t.results = [.bytes []] ∧ t.trace = [] ∧ t.fsm = .enabled := by decide

/-! ### Writing: W1, W2, W4, W6, W7, S5, X3, X7 -/

/-- W1, S4: the answers shown are T0's. -/
theorem test_write_w1 :
    let t := nextOf (execHostCall (.writeMemory .eeprom 0x10 [0x42#8]) (answering enabled [0x00#8, 0xA0#8, 0x00#8, 0xFF#8, 0x00#8, 0xC0#8, 0x00#8, 0x10#8, 0x00#8, 0xA0#8, 0x00#8, 0x42#8]))
    sent t = [0xA0#8, 0x00#8, 0x10#8, 0x00#8, 0xC0#8, 0x00#8, 0x10#8, 0x42#8, 0xA0#8, 0x00#8, 0x10#8, 0x00#8]
      ∧ t.results = [.ok] ∧ remarks t = [.delay 3600, .progress 1 1]
      ∧ (targetT0 .p0 []).answers t.trace = true := by decide

/-- W2, S4's second call: no write command. -/
theorem test_write_w2 :
    let t := nextOf (execHostCall (.writeMemory .eeprom 0x10 [0x42#8]) (answering enabled [0x00#8, 0xA0#8, 0x00#8, 0x42#8]))
    sent t = [0xA0#8, 0x00#8, 0x10#8, 0x00#8] ∧ t.results = [.ok] ∧ remarks t = [.progress 1 1] := by decide

/-- W7. -/
theorem test_write_w7_skip_before_sentinel :
    let t := nextOf (execHostCall (.writeMemory .flash 4 [0xFF#8]) (answering (withPart enabled partP2) [0x00#8, 0x20#8, 0x00#8, 0xFF#8]))
    sent t = [0x20#8, 0x00#8, 0x02#8, 0x00#8] ∧ remarks t = [.progress 1 1] := by decide

/-- W6. -/
theorem test_write_w6_high_byte :
    let t := nextOf (execHostCall (.writeMemory .flash 5 [0x3C#8]) (answering (withPart enabled partP2) [0x00#8, 0x28#8, 0x00#8, 0xFF#8, 0x00#8, 0x48#8, 0x00#8, 0x02#8, 0x00#8, 0x28#8, 0x00#8, 0x3C#8]))
    sent t = [0x28#8, 0x00#8, 0x02#8, 0x00#8, 0x48#8, 0x00#8, 0x02#8, 0x3C#8, 0x28#8, 0x00#8, 0x02#8, 0x00#8]
      ∧ t.results = [.ok] ∧ remarks t = [.delay 9000, .progress 1 1] := by decide

/-- P0 with the eeprom of S5: two sentinels, min and max apart. -/
def partS5 : PartDescriptor :=
  { partP0 with regions := [(.eeprom,
      byteRegion 1024 1000 9000 9000 [0xFF#8, 0x00#8] { read := some tplP0EepromRead, write := some tplP0EepromWrite })] }

/-- S5, first vector. -/
theorem test_write_s5_sentinel_ff :
    let t := nextOf (execHostCall (.writeMemory .eeprom 0x10 [0xFF#8]) (answering (withPart enabled partS5) [0x00#8, 0xA0#8, 0x00#8, 0x42#8, 0x00#8, 0xC0#8, 0x00#8, 0x10#8]))
    sent t = [0xA0#8, 0x00#8, 0x10#8, 0x00#8, 0xC0#8, 0x00#8, 0x10#8, 0xFF#8] ∧ t.results = [.ok]
      ∧ remarks t = [.delay 9000, .progress 1 1] := by decide

/-- S5, second vector. -/
theorem test_write_s5_sentinel_00 :
    let t := nextOf (execHostCall (.writeMemory .eeprom 0x11 [0x00#8]) (answering (withPart enabled partS5) [0x00#8, 0xA0#8, 0x00#8, 0xFF#8, 0x00#8, 0xC0#8, 0x00#8, 0x11#8]))
    sent t = [0xA0#8, 0x00#8, 0x11#8, 0x00#8, 0xC0#8, 0x00#8, 0x11#8, 0x00#8]
      ∧ remarks t = [.delay 9000, .progress 1 1] := by decide

/-- W5 with PollBound 2: two read-backs, the last one reported, the next byte not attempted. -/
theorem test_write_poll_timeout :
    let t := nextOf (execHostCall (.writeMemory .eeprom 0x20 [0x01#8, 0x02#8]) (answering (withParams enabled { Config.defaultParams with pollBound := 2 }) [0x00#8, 0xA0#8, 0x00#8, 0xFF#8, 0x00#8, 0xC0#8, 0x00#8, 0x20#8, 0x00#8, 0xA0#8, 0x00#8, 0xFF#8, 0x00#8, 0xA0#8, 0x00#8, 0xFE#8]))
    t.results = [.error (.pollTimeout .eeprom 0x20 0x01#8 0xFE#8)] ∧ t.fsm = .enabled ∧ t.pollTries = 2
      ∧ remarks t = [.delay 3600, .delay 3600] ∧ pulses t.trace = 128 := by decide

/-- W4 with one busy read-back. -/
theorem test_write_w4_second_read_back :
    let t := nextOf (execHostCall (.writeMemory .eeprom 0x10 [0x42#8]) (answering enabled [0x00#8, 0xA0#8, 0x00#8, 0xFF#8, 0x00#8, 0xC0#8, 0x00#8, 0x10#8, 0x00#8, 0xA0#8, 0x00#8, 0xFF#8, 0x00#8, 0xA0#8, 0x00#8, 0x42#8]))
    t.results = [.ok] ∧ t.pollTries = 1 ∧ pulses t.trace = 128
      ∧ remarks t = [.delay 3600, .delay 3600, .progress 1 1] := by decide

/-- X3. -/
theorem test_write_x3 :
    let t := nextOf (execHostCall (.writeMemory .eeprom 0 [0x01#8]) (withPart enabled { partP0 with regions := [(.eeprom, byteRegion 1024 0 0 0 [] { read := some tplP0EepromRead })] }))
    t.results = [.error (.undefinedOpcode (.region .eeprom .write))] ∧ t.fsm = .enabled ∧ t.trace = [] := by decide

/-- X7, P5: the error comes in the second LOADPAGE. -/
theorem test_write_x7 :
    let t := nextOf (execHostCall (.writeMemory .flash 0 [0x01#8, 0x02#8]) ({ answering enabled [0x00#8, 0x40#8, 0x00#8, 0x00#8, 0x00#8] with ioFaults := List.replicate 100 none ++ [some 3] }))
    t.results = [.error (.transport 3)] ∧ t.fsm = .enabled ∧ t.pageVals = [] ∧ t.trace.length = 100 := by decide

/-! ### Paged writing: S6 (b), P3's first page -/

/-- S6 (b), two bytes of it: no read. -/
theorem test_paged_s6b :
    let t := nextOf (execHostCall (.writeMemory .flash 0x100 [0xFF#8, 0xFF#8]) (answering enabled [0x00#8, 0x40#8, 0x00#8, 0x00#8, 0x00#8, 0x48#8, 0x00#8, 0x00#8, 0x00#8, 0x4C#8, 0x00#8, 0x80#8]))
    sent t = [0x40#8, 0x00#8, 0x00#8, 0xFF#8, 0x48#8, 0x00#8, 0x00#8, 0xFF#8, 0x4C#8, 0x00#8, 0x80#8, 0x00#8]
      ∧ t.results = [.ok]
      ∧ remarks t = [.delay 4500, .progress 2 2] ∧ t.pageVals = [] := by decide

/-- S6 (a), its second word: the byte polled is A+2. -/
theorem test_paged_s6a :
    let t := nextOf (execHostCall (.writeMemory .flash 0x202 [0x42#8, 0xFF#8]) (answering enabled [0x00#8, 0x40#8, 0x00#8, 0x01#8, 0x00#8, 0x48#8, 0x00#8, 0x01#8, 0x00#8, 0x4C#8, 0x01#8, 0x00#8, 0x00#8, 0x20#8, 0x01#8, 0x42#8]))
    sent t = [0x40#8, 0x00#8, 0x01#8, 0x42#8, 0x48#8, 0x00#8, 0x01#8, 0xFF#8, 0x4C#8, 0x01#8, 0x00#8, 0x00#8, 0x20#8, 0x01#8, 0x01#8, 0x00#8] ∧ t.results = [.ok]
      ∧ remarks t = [.delay 4500, .progress 2 2] := by decide

/-- P3: the byte polled of page 0 is the one at its boundary; page 1 is erased. -/
theorem test_paged_across_pages_p3 :
    let t := nextOf (execHostCall (.writeMemory .flash 0x7F [0x42#8, 0xFF#8, 0xFF#8]) (answering enabled [0x00#8, 0x48#8, 0x00#8, 0x3F#8, 0x00#8, 0x4C#8, 0x00#8, 0x00#8, 0x00#8, 0x28#8, 0x00#8, 0x42#8, 0x00#8, 0x40#8, 0x00#8, 0x00#8, 0x00#8, 0x48#8, 0x00#8, 0x00#8, 0x00#8, 0x4C#8, 0x00#8, 0x40#8]))
    sent t = [0x48#8, 0x00#8, 0x3F#8, 0x42#8, 0x4C#8, 0x00#8, 0x00#8, 0x00#8, 0x28#8, 0x00#8, 0x3F#8, 0x00#8, 0x40#8, 0x00#8, 0x00#8, 0xFF#8, 0x48#8, 0x00#8, 0x00#8, 0xFF#8, 0x4C#8, 0x00#8, 0x40#8, 0x00#8]
      ∧ t.results = [.ok] ∧ remarks t = [.delay 4500, .progress 1 3, .delay 4500, .progress 3 3] := by decide

/-- R291, R333: a page poll that times out; the next page is not loaded. -/
theorem test_paged_poll_timeout :
    let t := nextOf (execHostCall (.writeMemory .flash 0x7F [0x42#8, 0x01#8])
      (answering (withParams enabled { Config.defaultParams with pollBound := 1 }) [0x00#8, 0x48#8, 0x00#8, 0x3F#8, 0x00#8, 0x4C#8, 0x00#8, 0x00#8, 0x00#8, 0x28#8, 0x00#8, 0x7F#8]))
    t.results = [.error (.pollTimeout .flash 0x7F 0x42#8 0x7F#8)] ∧ pulses t.trace = 96 ∧ remarks t = [.delay 4500]
      ∧ t.pageVals = [] ∧ t.pollTries = 1 ∧ t.fsm = .enabled := by decide

theorem test_page_poll_byte_s6 :
    Memory.highestNotErased [(0x200, 0xFF#8), (0x201, 0xFF#8), (0x202, 0x42#8), (0x203, 0xFF#8)] = some (0x202, 0x42#8) := by decide

theorem test_page_vals_stay_canonical :
    Memory.store (Memory.store (Memory.store [] 5 1#8) 3 2#8) 5 3#8 = [(3, 2#8), (5, 3#8)] := by decide

/-! ### Chip erase and disable: C1, C3, C4 -/

/-- C1. -/
theorem test_chip_erase_c1 :
    let t := nextOf (execHostCall (.chipErase) (answering enabled [0x00#8, 0xAC#8, 0x80#8, 0x00#8, 0x00#8, 0xAC#8, 0x53#8, 0x00#8]))
    sent t = [0xAC#8, 0x80#8, 0x00#8, 0x00#8, 0xAC#8, 0x53#8, 0x00#8, 0x00#8] ∧ t.results = [.ok]
      ∧ t.fsm = .enabled ∧ t.peOk = true
      ∧ remarks t = [.delay 9000] := by decide

/-- R265, R300: P2 answers the new PGM_ENABLE with anything. -/
theorem test_chip_erase_of_p2 :
    let t := nextOf (execHostCall (.chipErase) (answering (withPart enabled partP2) [0x00#8, 0xAC#8, 0x80#8, 0x00#8, 0x00#8, 0x00#8, 0x00#8, 0x00#8]))
    sent t = [0xAC#8, 0x80#8, 0x00#8, 0x00#8, 0xAC#8, 0x53#8, 0x00#8, 0x00#8] ∧ t.results = [.ok] ∧ t.peOk = true := by decide

/-- R135, R330: a pin of the postamble that is unassigned is reported before any of its operations. -/
theorem test_disable_unassigned_pin :
    let t := nextOf (execHostCall .disable
      (withPins (withOps enabled [] [.set .sdo false, .set .reset true]) { allPinsAssigned with reset := ⟨none, false⟩ }))
    t.results = [.error (.unassignedPin .reset)] ∧ t.trace = [] ∧ t.fsm = .enabled := by decide

/-- R338: of a postamble that sets Reset and then Sdo, both unassigned, Sdo is named, and of one that sets the power pin
and then Reset, both unassigned and Reset a pin of the preamble, Reset. -/
theorem test_disable_pin_order :
    (nextOf (execHostCall .disable (withPins (withOps enabled [] [.set .reset true, .set .sdo false])
      { allPinsAssigned with reset := ⟨none, false⟩, sdo := ⟨none, false⟩ }))).results = [.error (.unassignedPin .sdo)]
    ∧ (nextOf (execHostCall .disable (withPins (withOps enabled [.set .reset true] [.set .power true, .set .reset false])
      { allPinsAssigned with reset := ⟨none, false⟩, power := ⟨none, false⟩ }))).results
        = [.error (.unassignedPin .reset)] := by decide

theorem test_disable_c3_c4 :
    (nextOf (execHostCall .disable enabled)).fsm = .disabled ∧ (nextOf (execHostCall .disable enabled)).trace = []
    ∧ (nextOf (execHostCall .disable calm)).fsm = .disabled := by decide

/-! ### Steps -/

theorem test_step_runs_the_placed_word :
    (nextOf (step ((answering calm [0x00#8, 0x30#8, 0x00#8, 0x0F#8]).withFetchWord 32 0x30000200))).results = [.byte 0x0F#8] := by decide

theorem test_step_from_reset_runs_the_placed_word :
    isNext (step (State.reset.withFetchWord 32 0x4C004000)) = true := by decide

theorem test_step_without_request_changes_nothing : step calm = .next calm := rfl

/-! ### Witnesses: for each statement, a state and operands that meet its hypotheses together -/

/-- The calls of `answering` and `sampling` states fail no more than those of the state they start from. -/
theorem answering_noFault {s : State} (h : s.ioFaults = List.replicate 700 none) (bs : List Byte) {n : Nat} (hn : n ≤ 700) :
    (answering s bs).NoFault n := noFault_of (s := answering s bs) h hn

theorem sampling_noFault (levels : List Nat) {n : Nat} (hn : n ≤ 700) : (sampling calm levels).NoFault n :=
  noFault_of (s := sampling calm levels) rfl hn

/-- A session whose transport call `k` fails with 3, the ones before it not. -/
def failing (s : State) (k : Nat) : State := { s with ioFaults := List.replicate k none ++ [some 3] }

/-- A region of the state's part. -/
def region (s : State) (rn : RegionName) : Region := (findRegion s rn).getD (byteRegion 1 0 0 0 [] {})

theorem test_witness_DecodeReadsEncodedInstruction :
    ([(.p0, .p0FlashReadLo 0x3FFF), (.p1, .p0PgmEnable), (.p1, .p1FlashLoadExtAddr 0x10000), (.p2, .p2FlashWriteHi 0x1FF 0xFF#8)] :
      List (Profile × Instr)).all (fun e => e.2.profiles.contains e.1 && e.2.wf) = true := by decide

theorem test_witness_DecodedInstructionIsWellFormed :
    decode .p0 [0xAC#8, 0xE0#8, 0x00#8, 0xFF#8] = .ok (.p0LockWrite 0x3F#8) := by decide

theorem test_witness_RowsOfProfileDoNotOverlap :
    ∃ r ∈ Profile.rows .p0, r.accepts 0x20001200#32 = true :=
  ⟨(Profile.rows .p0)[2], List.getElem_mem _, by decide⟩

theorem test_witness_BuildPlacesMappedBits :
    tplP0EepromWrite.wf = true ∧ (17, 9) ∈ tplP0EepromWrite.addrMap ∧ (0, 0) ∈ tplP0EepromWrite.inputMap
    ∧ (∀ e ∈ tplP0EepromWrite.addrMap ++ tplP0EepromWrite.inputMap, e.1 ≠ 31)
    ∧ build tplP0EepromWrite (some 0x410) (some 0x42#8) = build tplP0EepromWrite (some 0x10) (some 0x42#8) := by decide

theorem test_witness_OpcodeSelectionByParity :
    (region calm .flash).ops.readLo ≠ none ∧ (region calm .eeprom).ops.readLo = none := by decide

theorem test_witness_SetDrivesTheLevel : calm.faultAt 0 = none ∧ (failing calm 0).faultAt 0 = some 3 := by decide

theorem test_witness_GetSamplesTheEnvironment : calm.faultAt 0 = none ∧ (failing calm 0).faultAt 0 = some 3 := by decide

theorem test_witness_PulseAndDelayKeepLevels : calm.faultAt 0 = none ∧ (failing calm 0).faultAt 0 = some 3 := by decide

theorem test_witness_TransmitByteExchange : calm.NoFault 24 := calm_noFault (by decide)

theorem test_witness_TransmitCmdExchange : calm.NoFault 96 := calm_noFault (by decide)

/-- The exchange of S1.1 and that of S1.4. -/
def s11 : Run Byte := transmitByte 0xAC#8 (answering calm [0x56#8])

def s14 : Run Cmd :=
  transmitCmd ⟨0xAC#8, 0x53#8, 0x00#8, 0x00#8⟩ (answering calm [0x56#8, 0x29#8, 0x80#8, 0x00#8])

theorem test_witness_ExchangeClockCounts : s11 = .done 0x56#8 (stateOf s11)
    ∧ s14 = .done ⟨0x56#8, 0x29#8, 0x80#8, 0x00#8⟩ (stateOf s14) := ⟨eq_done (by decide), eq_done (by decide)⟩

theorem test_witness_LoopbackDelaysOneBit :
    (s11 = .done 0x56#8 (stateOf s11) ∧ loopbackAnswers calm.lvlSdo (newEvents calm (stateOf s11)) = true)
    ∧ s14 = .done ⟨0x56#8, 0x29#8, 0x80#8, 0x00#8⟩ (stateOf s14)
    ∧ loopbackAnswers calm.lvlSdo (newEvents calm (stateOf s14)) = true :=
  ⟨⟨eq_done (by decide), by decide⟩, eq_done (by decide), by decide⟩

/-- T0 answers a read of an erased byte. -/
def s16 : Run Cmd :=
  transmitCmd ⟨0x20#8, 0x00#8, 0x12#8, 0x00#8⟩ (answering calm [0x00#8, 0x20#8, 0x00#8, 0xFF#8])

/-- The same word, answered by a T0 that is out of phase. -/
def s16Late : Run Cmd :=
  transmitCmd ⟨0x20#8, 0x00#8, 0x12#8, 0x00#8⟩ (answering calm [0x00#8, 0x20#8, 0x00#8, 0x12#8])

theorem test_witness_ReferenceTargetEchoesOneByteLater : s16 = .done ⟨0x00#8, 0x20#8, 0x00#8, 0xFF#8⟩ (stateOf s16)
    ∧ (targetT0 .p0 []).honours = true ∧ (targetT0 .p0 []).atFrameStart = true
    ∧ (targetT0 .p0 []).answers (newEvents calm (stateOf s16)) = true
    ∧ s16Late = .done ⟨0x00#8, 0x20#8, 0x00#8, 0x12#8⟩ (stateOf s16Late)
    ∧ (∀ o ∈ [1, 9, 31], let tg := (targetT0 .p0 []).offset o;
      tg.gated = false ∧ tg.taken = none ∧ 0 < tg.count ∧ tg.count < 32
      ∧ tg.answers (newEvents calm (stateOf s16Late)) = true) :=
  ⟨eq_done (by decide), rfl, rfl, by decide, eq_done (by decide), by decide⟩

theorem test_witness_TpiFrameIsSent : calm.NoFault 24 := calm_noFault (by decide)

/-- T10 with k = 1; T11's stop bits and T4's frame with the start bit at the last sample allowed. -/
theorem test_witness_TpiFrameIsReceived :
    ((sampling calm [0, 1, 1, 0, 0, 1, 0, 1, 0, 1, 1, 1]).NoFault 25
      ∧ (sampling calm [0, 1, 1, 0, 0, 1, 0, 1, 0, 1, 1, 1]).Samples ([] ++ [false] ++ lsbFirst 0x53#8 ++ [true, true, true]))
    ∧ ((sampling calm [1, 1, 1, 1, 1, 1, 1, 1, 1, 0, 1, 1, 0, 0, 1, 0, 1, 0, 0, 0, 1]).NoFault 43
      ∧ (sampling calm [1, 1, 1, 1, 1, 1, 1, 1, 1, 0, 1, 1, 0, 0, 1, 0, 1, 0, 0, 0, 1]).Samples
        (List.replicate 9 true ++ [false] ++ lsbFirst 0x53#8 ++ [false, false, true]))
    ∧ (sampling calm [1, 1, 1, 1, 1, 1, 1, 1, 1, 0, 1, 1, 0, 0, 1, 0, 1, 0, 0, 1, 1]).NoFault 43
      ∧ (sampling calm [1, 1, 1, 1, 1, 1, 1, 1, 1, 0, 1, 1, 0, 0, 1, 0, 1, 0, 0, 1, 1]).Samples
        (List.replicate 9 true ++ [false] ++ lsbFirst 0x53#8 ++ [false, true, true])
      ∧ calm.cfg.params.startBitWindow = 10 :=
  ⟨⟨sampling_noFault _ (by decide), by decide⟩, ⟨sampling_noFault _ (by decide), by decide⟩,
    sampling_noFault _ (by decide), by decide, rfl⟩

theorem test_witness_TpiStartBitMissing : (sampling calm [1, 1, 1, 1, 1, 1, 1, 1, 1, 1]).NoFault 21
    ∧ (sampling calm [1, 1, 1, 1, 1, 1, 1, 1, 1, 1]).Samples (List.replicate calm.cfg.params.startBitWindow true) :=
  ⟨sampling_noFault _ (by decide), by decide⟩

/-- The frame of 0x53, and it with a data bit (the first), the parity bit and a stop bit (the last) flipped. -/
theorem test_witness_TpiReplayLaw :
    txByte 0x53#8 calm = .done () (stateOf (txByte 0x53#8 calm)) ∧ calm.NoFault 25
    ∧ (sampling calm [0, 1, 1, 0, 0, 1, 0, 1, 0, 0, 1, 1]).Samples
      (sdoAtPulses calm.lvlSdo (newEvents calm (stateOf (txByte 0x53#8 calm))))
    ∧ (sampling calm [0, 0, 1, 0, 0, 1, 0, 1, 0, 0, 1, 1]).Samples
      ((sdoAtPulses calm.lvlSdo (newEvents calm (stateOf (txByte 0x53#8 calm)))).modify 1 (!·))
    ∧ (sampling calm [0, 1, 1, 0, 0, 1, 0, 1, 0, 1, 1, 1]).Samples
      ((sdoAtPulses calm.lvlSdo (newEvents calm (stateOf (txByte 0x53#8 calm)))).modify 9 (!·))
    ∧ (sampling calm [0, 1, 1, 0, 0, 1, 0, 1, 0, 0, 0, 1]).Samples
      ((sdoAtPulses calm.lvlSdo (newEvents calm (stateOf (txByte 0x53#8 calm)))).modify 10 (!·))
    ∧ (sampling calm [0, 1, 1, 0, 0, 1, 0, 1, 0, 0, 1, 0]).Samples
      ((sdoAtPulses calm.lvlSdo (newEvents calm (stateOf (txByte 0x53#8 calm)))).modify 11 (!·)) :=
  ⟨eq_done (by decide), calm_noFault (by decide), by decide, by decide, by decide, by decide, by decide⟩

/-- The frames after which the second `rx_byte` fails. -/
def frameThenNone : State := sampling calm [0, 1, 1, 0, 0, 1, 0, 1, 0, 0, 1, 1, 1, 1, 1, 1, 1, 1, 1, 1, 1, 1]

/-- One frame each way; an error of the first receive, and of the second of two. -/
theorem test_witness_CmdTpiSendsThenReceives : calm.WiresAssigned
    ∧ ((sampling calm [0, 1, 1, 0, 0, 1, 0, 1, 0, 0, 1, 1]).NoFault (24 + 25)
      ∧ (sampling calm [0, 1, 1, 0, 0, 1, 0, 1, 0, 0, 1, 1]).Samples
        ([] ++ [false] ++ lsbFirst 0x53#8 ++ [decide (popcount 0x53#8 % 2 = 1), true, true]))
    ∧ txBytes [] frameThenNone = .done () frameThenNone
    ∧ (rxBytes 0 frameThenNone = .done [] frameThenNone ∧ rxBytes 1 frameThenNone = .done [0x53#8] (stateOf (rxBytes 1 frameThenNone)))
    ∧ rxByte (stateOf (rxBytes 1 frameThenNone))
      = .raised (.frame .noStartBit) (stateOf (rxByte (stateOf (rxBytes 1 frameThenNone))))
    ∧ rxByte (sampling calm [1, 1, 1, 1, 1, 1, 1, 1, 1, 1])
      = .raised (.frame .noStartBit) (stateOf (rxByte (sampling calm [1, 1, 1, 1, 1, 1, 1, 1, 1, 1]))) :=
  ⟨by decide, ⟨sampling_noFault _ (by decide), by decide⟩, rfl, ⟨rfl, eq_done (by decide)⟩, eq_raised (by decide),
    eq_raised (by decide)⟩

theorem test_witness_PgmEnableCompletes : calm.WiresAssigned ∧ calm.NoFault 96 :=
  ⟨by decide, calm_noFault (by decide)⟩

theorem test_witness_ChipEraseCommandCompletes : calm.WiresAssigned ∧ calm.NoFault 96 :=
  ⟨by decide, calm_noFault (by decide)⟩

theorem test_witness_ReadByteInstructionsComplete : calm.WiresAssigned ∧ calm.NoFault 96 :=
  ⟨by decide, calm_noFault (by decide)⟩

theorem test_witness_ReadLowByteInstructionsComplete : calm.WiresAssigned ∧ calm.NoFault 96 :=
  ⟨by decide, calm_noFault (by decide)⟩

theorem test_witness_ReadHighByteInstructionsComplete : calm.WiresAssigned ∧ calm.NoFault 96 :=
  ⟨by decide, calm_noFault (by decide)⟩

theorem test_witness_WriteByteInstructionsComplete : calm.WiresAssigned ∧ calm.NoFault 96 :=
  ⟨by decide, calm_noFault (by decide)⟩

theorem test_witness_WriteWordHalvesComplete : calm.WiresAssigned ∧ calm.NoFault 96 :=
  ⟨by decide, calm_noFault (by decide)⟩

theorem test_witness_LoadPageInstructionsComplete : calm.WiresAssigned ∧ calm.NoFault 96 :=
  ⟨by decide, calm_noFault (by decide)⟩

theorem test_witness_WritePageInstructionsComplete : calm.WiresAssigned ∧ calm.NoFault 96 :=
  ⟨by decide, calm_noFault (by decide)⟩

theorem test_witness_LoadExtAddrCompletes : calm.WiresAssigned ∧ calm.NoFault 96 :=
  ⟨by decide, calm_noFault (by decide)⟩

theorem test_witness_IspTransportErrorEndsInstruction :
    ((failing calm 0).WiresAssigned ∧ (failing calm 0).FaultAt 0 3)
    ∧ (failing calm 95).WiresAssigned ∧ (failing calm 95).FaultAt 95 3 := by
  refine ⟨⟨by decide, ?_, by decide⟩, by decide, ?_, by decide⟩ <;> decide

/-- One that returns a byte and one that ends in an error. -/
theorem test_witness_IspInstructionFrame :
    (exec .p0LfuseRead (answering calm [0x00#8, 0x50#8, 0x00#8, 0x62#8])
        = .next (nextOf (exec .p0LfuseRead (answering calm [0x00#8, 0x50#8, 0x00#8, 0x62#8])))
      ∧ (nextOf (exec .p0LfuseRead (answering calm [0x00#8, 0x50#8, 0x00#8, 0x62#8]))).results = [] ++ [.byte 0x62#8])
    ∧ exec .p0LfuseRead (failing calm 0) = .next (nextOf (exec .p0LfuseRead (failing calm 0)))
    ∧ (nextOf (exec .p0LfuseRead (failing calm 0))).results = [] ++ [.error (.transport 3)] :=
  ⟨⟨eq_nextOf (by decide), by decide⟩, eq_nextOf (by decide), by decide⟩

theorem test_witness_StepRunsTheNextRequest :
    calm.cfg.wf = true ∧ decode calm.profile [0xAC#8, 0x80#8, 0#8, 0#8] = .ok .p0ChipErase
    ∧ decodeTableWord 32 0xAC800000 = some .p0ChipErase := by decide

theorem test_witness_HostCallStateTable :
    legalStart .chipErase calm.fsm = false ∧ { calm with fsm := .disabled }.fsm = .disabled
    ∧ execHostCall (.readMemory .eeprom 0 0) enabled = .next (nextOf (execHostCall (.readMemory .eeprom 0 0) enabled)) :=
  ⟨by decide, rfl, eq_nextOf (by decide)⟩

theorem test_witness_OutOfRangeIsRefused : enabled.fsm = .enabled
    ∧ findRegion enabled .signature = some (region enabled .signature) ∧ 2 + 2 > (region enabled .signature).size
    ∧ 3 + [0#8].length > (region enabled .signature).size := by decide

/-- A part whose only region has its operations spoilt. -/
def partWith (m : Region) : PartDescriptor := { partP0 with regions := [(.flash, m)] }

/-- Its flash has no READ_HI. -/
def partNoReadHi : PartDescriptor :=
  partWith { region calm .flash with ops := { (region calm .flash).ops with readHi := none } }

/-- Its flash is byte-organised and has no WRITE. -/
def partNoWrite : PartDescriptor := partWith (byteRegion 1 0 0 0 [] { read := some tplP0EepromRead })

/-- A part without part-level opcodes. -/
def partNoOps : PartDescriptor := { partP0 with pgmEnable := none, chipErase := none }

theorem test_witness_ConfigErrorChangesNothing :
    checkInitialise (withPart calm partNoOps).cfg = some (.undefinedOpcode .pgmEnable)
    ∧ checkChipErase (withPart enabled partNoOps).cfg = some (.undefinedOpcode .chipErase)
    ∧ (findRegion (withPart enabled partNoReadHi) .flash = some (region (withPart enabled partNoReadHi) .flash)
      ∧ undefinedRegionOp? .flash (region (withPart enabled partNoReadHi) .flash)
        (readNeeds (region (withPart enabled partNoReadHi) .flash)) = some (.undefinedOpcode (.region .flash .readHi)))
    ∧ findRegion (withPart enabled partNoWrite) .flash = some (region (withPart enabled partNoWrite) .flash)
    ∧ undefinedRegionOp? .flash (region (withPart enabled partNoWrite) .flash)
      (writeNeeds (region (withPart enabled partNoWrite) .flash)) = some (.undefinedOpcode (.region .flash .write))
    ∧ checkDisable (withPins (withOps calm [] [.set .reset true]) { allPinsAssigned with reset := ⟨none, false⟩ }).cfg
      = some (.unassignedPin .reset) := by decide

/-- `Sdi` unassigned, with the two pins before it assigned: `initialize`, the words and the calls that sample; then `Sdo`,
which every exchange and `tx_byte` operate; then a pin of a postamble behind `Sck` and `Sdo`, which it operates too. -/
theorem test_witness_FirstUnassignedPinIsReported :
    (let s := withPins calm { allPinsAssigned with sdi := ⟨none, false⟩ };
      s.fsm = .disconnected
      ∧ [.sck, .sdo, .sdi] ++ s.cfg.initPreamble.filterMap pinOpPin? ++ s.cfg.disablePostamble.filterMap pinOpPin?
        = [.sck, .sdo] ++ .sdi :: []
      ∧ [Pin.sck, .sdo, .sdi] = [.sck, .sdo] ++ .sdi :: []
      ∧ (∀ q ∈ [Pin.sck, .sdo], (pinEntry s.cfg.pins q).line ≠ none) ∧ (pinEntry s.cfg.pins .sdi).line = none)
    ∧ (let s := withPins calm { allPinsAssigned with sdo := ⟨none, false⟩ };
      [Pin.sck, .sdo] = [.sck] ++ .sdo :: [] ∧ [Pin.sck, .sdo, .sdi] = [.sck] ++ .sdo :: [.sdi]
      ∧ (∀ q ∈ [Pin.sck], (pinEntry s.cfg.pins q).line ≠ none) ∧ (pinEntry s.cfg.pins .sdo).line = none)
    ∧ (let s := withPins (withOps enabled [] [.set .sdo false, .delay 1, .set .reset true, .pulse .sck])
          { allPinsAssigned with reset := ⟨none, false⟩ };
      s.fsm = .enabled
      ∧ ([Pin.sck, .sdo, .sdi] ++ s.cfg.initPreamble.filterMap pinOpPin?
          ++ s.cfg.disablePostamble.filterMap pinOpPin?).filter
            (fun q => decide (q ∈ s.cfg.disablePostamble.filterMap pinOpPin?))
        = [.sck, .sdo, .sdo] ++ .reset :: [.sck]
      ∧ (∀ q ∈ [Pin.sck, .sdo, .sdo], (pinEntry s.cfg.pins q).line ≠ none) ∧ (pinEntry s.cfg.pins .reset).line = none) := by decide

/-- Word-organised and paged without READ_HI; byte-organised and not paged without WRITE; a part without part-level
opcodes, and one without PGM_ENABLE only. -/
theorem test_witness_NeededOpcodesInOrder :
    (let s := withPart enabled partNoReadHi; let m := region s .flash;
      s.fsm = .enabled ∧ findRegion s .flash = some m ∧ 0 + [1#8].length ≤ m.size
      ∧ (∀ x ∈ [OpName.loadpageLo, .loadpageHi, .writepage, .readLo], regionOp m x ≠ none) ∧ regionOp m .readHi = none
      ∧ (if m.ops.readLo.isSome then [OpName.readLo, .readHi] else [.read]) = [.readLo] ++ .readHi :: []
      ∧ (if 0 < m.pageSize ∧ m.ops.writepage ≠ none then
          (if m.ops.readLo.isSome then [OpName.loadpageLo, .loadpageHi, .writepage, .readLo, .readHi]
            else [.loadpageLo, .writepage, .read])
        else (if m.ops.readLo.isSome then [.writeLo, .writeHi, .readLo, .readHi] else [.write, .read]))
          = [.loadpageLo, .loadpageHi, .writepage, .readLo] ++ .readHi :: [])
    ∧ (let s := withPart enabled partNoWrite; let m := region s .flash;
      s.fsm = .enabled ∧ findRegion s .flash = some m ∧ 0 + [1#8].length ≤ m.size ∧ regionOp m .write = none
      ∧ (if 0 < m.pageSize ∧ m.ops.writepage ≠ none then
          (if m.ops.readLo.isSome then [OpName.loadpageLo, .loadpageHi, .writepage, .readLo, .readHi]
            else [.loadpageLo, .writepage, .read])
        else (if m.ops.readLo.isSome then [.writeLo, .writeHi, .readLo, .readHi] else [.write, .read]))
          = [] ++ .write :: [.read])
    ∧ ((withPart calm partNoOps).fsm = .disconnected
      ∧ (∀ q ∈ requiredPins (withPart calm partNoOps).cfg, (pinEntry (withPart calm partNoOps).cfg.pins q).line ≠ none)
      ∧ (withPart calm partNoOps).cfg.part.pgmEnable = none)
    ∧ (withPart enabled partNoOps).cfg.part.chipErase = none
    ∧ (withPart enabled { partP0 with pgmEnable := none }).cfg.part.chipErase ≠ none
    ∧ (withPart enabled { partP0 with pgmEnable := none }).cfg.part.pgmEnable = none := by decide

theorem test_witness_NonEchoingPartIsEnabled :
    (withPart calm partP2).fsm = .disconnected ∧ checkInitialise (withPart calm partP2).cfg = none
    ∧ (withPart calm partP2).cfg.part.pgmEnable = some tplP2PgmEnable ∧ tplP2PgmEnable.poll = none
    ∧ (withPart calm partP2).NoFault (0 + 96) :=
  ⟨rfl, by decide, rfl, rfl, noFault_of (s := withPart calm partP2) rfl (by decide)⟩

/-- A session that allows two attempts. -/
def twoAttempts : State := withParams calm { Config.defaultParams with resyncBound := 2 }

/-- Success on the first attempt, and on the second, the last one allowed. -/
theorem test_witness_HandshakeSucceedsAfterFailures :
    (twoAttempts.fsm = .disconnected ∧ checkInitialise twoAttempts.cfg = none
      ∧ twoAttempts.cfg.part.pgmEnable = some tplP0PgmEnable ∧ tplP0PgmEnable.poll = some (2, 0x53#8)
      ∧ 1 < twoAttempts.cfg.params.resyncBound ∧ twoAttempts.cfg.initPreamble.length = 0)
    ∧ ((answering twoAttempts [0#8, 0#8, 0x53#8, 0#8]).NoFault 96
      ∧ ((answering twoAttempts [0#8, 0#8, 0x53#8, 0#8]).response 0).byte 2 = 0x53#8)
    ∧ (answering twoAttempts [0#8, 0#8, 0x52#8, 0#8, 0#8, 0#8, 0x53#8, 0#8]).NoFault (97 * 1 + 96)
    ∧ (∀ j < 1, ((answering twoAttempts [0#8, 0#8, 0x52#8, 0#8, 0#8, 0#8, 0x53#8, 0#8]).response (32 * j)).byte 2 ≠ 0x53#8)
    ∧ ((answering twoAttempts [0#8, 0#8, 0x52#8, 0#8, 0#8, 0#8, 0x53#8, 0#8]).response (32 * 1)).byte 2 = 0x53#8 :=
  ⟨by decide, ⟨answering_noFault rfl _ (by decide), by decide⟩, answering_noFault rfl _ (by decide), by decide, by decide⟩

theorem test_witness_ResyncExhaustedAtTheBound :
    1 ≤ twoAttempts.cfg.params.resyncBound
    ∧ (answering twoAttempts [0#8, 0#8, 0#8, 0#8, 0#8, 0#8, 0#8, 0#8]).NoFault (97 * twoAttempts.cfg.params.resyncBound)
    ∧ ∀ j < twoAttempts.cfg.params.resyncBound,
      ((answering twoAttempts [0#8, 0#8, 0#8, 0#8, 0#8, 0#8, 0#8, 0#8]).response (32 * j)).byte 2 ≠ 0x53#8 :=
  ⟨by decide, answering_noFault rfl _ (by decide), by decide⟩

/-- The enabled session with `ext_last` none, as every call starts, of P0 and of P1. -/
def noLea : State := { enabled with extLast := none }

def noLea1 : State := { withPart enabled partP1 with extLast := none }

/-- Nothing, the whole of a region without LOAD_EXT_ADDR, and two bytes of one with it, across a window. -/
theorem test_witness_ReadMemoryReturnsEachByte :
    (enabled.fsm = .enabled ∧ findRegion enabled .signature = some (region enabled .signature)
      ∧ 3 + 0 ≤ (region enabled .signature).size ∧ 0 + 3 ≤ (region enabled .signature).size
      ∧ undefinedRegionOp? .signature (region enabled .signature) (readNeeds (region enabled .signature)) = none)
    ∧ noLea.NoFault (noLea.callsOf (region enabled .signature) (readItems (region enabled .signature) 0 3))
    ∧ ((withPart enabled partP1).fsm = .enabled
      ∧ findRegion (withPart enabled partP1) .flash = some (region (withPart enabled partP1) .flash)
      ∧ 0x1FFFF + 2 ≤ (region (withPart enabled partP1) .flash).size)
    ∧ noLea1.NoFault (noLea1.callsOf (region noLea1 .flash) (readItems (region noLea1 .flash) 0x1FFFF 2)) :=
  ⟨by decide, noFault_of (s := noLea) rfl (by decide), by decide, noFault_of (s := noLea1) rfl (by decide)⟩

/-- P1's session with an address window known. -/
def inWindow (w : Option Nat) : State := { withPart enabled partP1 with extLast := w }

theorem test_witness_LoadExtAddrOnlyForNewWindow :
    (region enabled .flash).ops.loadExtAddr = none ∧ (inWindow (some 1)).extLast = some (0x10000 / 2 ^ (inWindow (some 1)).cfg.params.addrFieldBits)
    ∧ (region (inWindow none) .flash).ops.loadExtAddr = some tplP1FlashLoadExtAddr
    ∧ (inWindow none).extLast ≠ some (0x10000 / 2 ^ (inWindow none).cfg.params.addrFieldBits) ∧ (inWindow none).NoFault 96 :=
  ⟨by decide, by decide, by decide, by decide, noFault_of (s := inWindow none) rfl (by decide)⟩

/-- The last byte of the region; two bytes in two windows, and two in one. -/
theorem test_witness_FirstReadOfCallSendsLoadExtAddr :
    let s := inWindow (some 0)
    let m := region s .flash
    s.fsm = .enabled ∧ findRegion s .flash = some m ∧ undefinedRegionOp? .flash m (readNeeds m) = none
    ∧ m.ops.loadExtAddr = some tplP1FlashLoadExtAddr ∧ 0x3FFFF + 1 ≤ m.size
    ∧ (0x1FFFF + 2 ≤ m.size ∧ fieldAddr m 0x1FFFF / 2 ^ s.cfg.params.addrFieldBits ≠ fieldAddr m 0x20000 / 2 ^ s.cfg.params.addrFieldBits)
    ∧ (0x3FFFE + 2 ≤ m.size ∧ fieldAddr m 0x3FFFE / 2 ^ s.cfg.params.addrFieldBits = fieldAddr m 0x3FFFF / 2 ^ s.cfg.params.addrFieldBits)
    ∧ s.NoFault 384 :=
  ⟨by decide, by decide, by decide, by decide, by decide, by decide, by decide, noFault_of (s := inWindow (some 0)) rfl (by decide)⟩

/-- The session with the answers of W1 and of other writes to the eeprom. -/
def writing (bs : List Byte) : State := answering (withParams enabled { Config.defaultParams with pollBound := 2 }) bs

theorem writing_noFault (bs : List Byte) {n : Nat} (hn : n ≤ 700) : (writing bs).NoFault n :=
  answering_noFault (s := withParams enabled { Config.defaultParams with pollBound := 2 }) rfl bs hn

/-- The eeprom as `write_byte` needs it. -/
theorem eeprom_writable (bs : List Byte) :
    let m := region enabled .eeprom
    regionOp m (sel m .read 0x10) ≠ none ∧ regionOp m (sel m .write 0x10) ≠ none ∧ NoLeaFor m 0x10 (writing bs) :=
  ⟨by decide, by decide, .inl (by decide)⟩

theorem test_witness_EqualByteIsNotWritten :
    NoLeaFor (region enabled .eeprom) 0x10 (writing [0#8, 0#8, 0#8, 0x42#8])
    ∧ (writing [0#8, 0#8, 0#8, 0x42#8]).NoFault 96
    ∧ readOut (region enabled .eeprom) 0x10 ((writing [0#8, 0#8, 0#8, 0x42#8]).response 0) = 0x42#8 :=
  ⟨(eeprom_writable _).2.2, writing_noFault _ (by decide), by decide⟩

theorem test_witness_SentinelWriteWaitsOnce :
    NoLeaFor (region enabled .eeprom) 0x10 (writing [0#8, 0#8, 0#8, 0x42#8])
    ∧ (writing [0#8, 0#8, 0#8, 0x42#8]).NoFault 193
    ∧ readOut (region enabled .eeprom) 0x10 ((writing [0#8, 0#8, 0#8, 0x42#8]).response 0) ≠ 0xFF#8
    ∧ 0xFF#8 ∈ (region enabled .eeprom).pollSentinels :=
  ⟨(eeprom_writable _).2.2, writing_noFault _ (by decide), by decide, by decide⟩

/-- The answers of a write of 0x42 over 0xFF that the second read-back confirms. -/
def confirmedLate : State :=
  writing [0#8, 0#8, 0#8, 0xFF#8, 0#8, 0#8, 0#8, 0#8, 0#8, 0#8, 0#8, 0xFF#8, 0#8, 0#8, 0#8, 0x42#8]

theorem test_witness_WritePollsUntilMatch : NoLeaFor (region enabled .eeprom) 0x10 confirmedLate
    ∧ 1 < confirmedLate.cfg.params.pollBound ∧ confirmedLate.NoFault (192 + 97 * (1 + 1))
    ∧ readOut (region enabled .eeprom) 0x10 (confirmedLate.response 0) ≠ 0x42#8
    ∧ 0x42#8 ∉ (region enabled .eeprom).pollSentinels
    ∧ (∀ j < 1, readOut (region enabled .eeprom) 0x10 (confirmedLate.response (64 + 32 * j)) ≠ 0x42#8)
    ∧ readOut (region enabled .eeprom) 0x10 (confirmedLate.response (64 + 32 * 1)) = 0x42#8 :=
  ⟨(eeprom_writable _).2.2, by decide, writing_noFault _ (by decide), by decide, by decide, by decide, by decide⟩

theorem test_witness_PollTimeoutAtTheBound : NoLeaFor (region enabled .eeprom) 0x10 confirmedLate
    ∧ confirmedLate.cfg.params.pollBound = 1 + 1 ∧ confirmedLate.NoFault (192 + 97 * (1 + 1))
    ∧ readOut (region enabled .eeprom) 0x10 (confirmedLate.response 0) ≠ 0x41#8
    ∧ 0x41#8 ∉ (region enabled .eeprom).pollSentinels
    ∧ ∀ j ≤ 1, readOut (region enabled .eeprom) 0x10 (confirmedLate.response (64 + 32 * j)) ≠ 0x41#8 :=
  ⟨(eeprom_writable _).2.2, by decide, writing_noFault _ (by decide), by decide, by decide,
    fun j h => by
      have h : j = 0 ∨ j = 1 := by omega
      rcases h with rfl | rfl <;> decide⟩

/-- The eeprom of S5 with the answers of its three last bytes' writes: equal, a sentinel, and confirmed by the second
read-back, the last one allowed. -/
def writingThree : State :=
  let s := withParams (withPart enabled partS5) { Config.defaultParams with pollBound := 2 }
  { answering s ([0x10#8, 0x00#8, 0x00#8, 0xFF#8, 0x00#8, 0xFF#8, 0x42#8].flatMap fun b => [0#8, 0#8, 0#8, b]) with extLast := none }

/-- The same with the answers of a byte equal to the one there and of a write that times out. -/
def writingFails : State :=
  let s := withParams (withPart enabled partS5) { Config.defaultParams with pollBound := 2 }
  { answering s ([0x10#8, 0xFF#8, 0x00#8, 0xFF#8, 0x40#8].flatMap fun b => [0#8, 0#8, 0#8, b]) with extLast := none }

/-- The three ways a byte's write goes, up to the region's end; and a time-out with a byte before it and one after it. -/
theorem test_witness_WriteMemoryWritesBytesInOrder :
    let m := region writingThree .eeprom
    let writes := [(0x10#8, ByteWrite.skipped), (0xFF#8, .sentinel), (0x42#8, .polled 1)]
    let tried := writeItems m 0x3FD [(0x10#8, .skipped)]
      ++ [.readBack 0x3FE 0x42#8 false, .addressed 0x3FE (writeCmd m 0x3FE 0x42#8)]
      ++ failedPolls m 0x3FE 0x42#8 1 ++ [.wait m.minWriteDelayUs] ++ [.readBack 0x3FE 0x42#8 false]
    (writingThree.fsm = .enabled ∧ findRegion writingThree .eeprom = some m ∧ paged m = false
      ∧ undefinedRegionOp? .eeprom m (writeNeeds m) = none
      ∧ (∀ w ∈ writes, w.2.allowed m writingThree.cfg.params.pollBound w.1 = true)
      ∧ 0x3FD + writes.length ≤ m.size ∧ writingThree.answered m (writeItems m 0x3FD writes) = true)
    ∧ writingThree.NoFault (writingThree.callsOf m (writeItems m 0x3FD writes))
    ∧ (0x42#8 ∉ m.pollSentinels ∧ writingFails.cfg.params.pollBound = 1 + 1 ∧ 0x3FD + (1 + ([0x01#8].length + 1)) ≤ m.size
      ∧ writingFails.answered m tried = true)
    ∧ writingFails.NoFault (writingFails.callsOf m tried) :=
  ⟨by decide, noFault_of (s := writingThree) rfl (by decide), by decide, noFault_of (s := writingFails) rfl (by decide)⟩

theorem test_witness_PagePollByteIsHighest :
    Memory.highestNotErased [(3, 0x42#8), (4, 0xFF#8)] = some (3, 0x42#8) := by decide

/-- The answers of P3, whose first page is polled and whose second is erased. -/
def writingPages : State :=
  { answering enabled ([0x00#8, 0x00#8, 0x42#8, 0x00#8, 0x00#8, 0x00#8].flatMap fun b => [0#8, 0#8, 0#8, b]) with extLast := none }

/-- The answers of an erased page and of one that times out at its second read-back. -/
def writingPagesFails : State :=
  let s := withParams enabled { Config.defaultParams with pollBound := 2 }
  { answering s ([0x00#8, 0x00#8, 0x00#8, 0x00#8, 0x00#8, 0xFF#8, 0xBD#8].flatMap fun b => [0#8, 0#8, 0#8, b]) with extLast := none }

/-- P3: a page polled at its boundary byte, then an erased one; and an erased page, then one whose highest byte that is
not 0xFF times out. -/
theorem test_witness_PagedWriteLoadsCommitsAndPolls :
    let m := region enabled .flash
    let parts := [([0x42#8], 0), ([0xFF#8, 0xFF#8], 0)]
    let tried := pagesItems m 0x7F [([0xFF#8], 0)] ++ loadItems m 0x80 [0x42#8, 0xFF#8] ++ [pageItem m 0x80]
      ++ failedPolls m 0x80 0x42#8 1 ++ [.wait m.minWriteDelayUs] ++ [.readBack 0x80 0x42#8 false]
    (writingPages.fsm = .enabled ∧ findRegion writingPages .flash = some m ∧ paged m = true
      ∧ undefinedRegionOp? .flash m (writeNeeds m) = none ∧ (∀ p ∈ parts, p.2 < writingPages.cfg.params.pollBound)
      ∧ cutAtPages m.pageSize 0x7F (parts.map Prod.fst) = true
      ∧ 0x7F + (parts.map Prod.fst).flatten.length ≤ m.size ∧ writingPages.answered m (pagesItems m 0x7F parts) = true)
    ∧ writingPages.NoFault (writingPages.callsOf m (pagesItems m 0x7F parts))
    ∧ (writingPagesFails.fsm = .enabled ∧ findRegion writingPagesFails .flash = some m
      ∧ cutAtPages m.pageSize 0x7F ([[0xFF#8]] ++ [[0x42#8, 0xFF#8]]) = true
      ∧ polledByte (0x7F + [0xFF#8].length) [0x42#8, 0xFF#8] = some (0x42#8, 0x80) ∧ 0x42#8 ∉ m.pollSentinels
      ∧ writingPagesFails.cfg.params.pollBound = 1 + 1 ∧ writingPagesFails.answered m tried = true)
    ∧ writingPagesFails.NoFault (writingPagesFails.callsOf m tried) :=
  ⟨by decide, noFault_of (s := writingPages) rfl (by decide), by decide, noFault_of (s := writingPagesFails) rfl (by decide)⟩

/-- A part whose PGM_ENABLE echoes, and P2, whose PGM_ENABLE is not checked. -/
theorem test_witness_ChipEraseRunsTheHandshake :
    let s := answering enabled [0#8, 0#8, 0#8, 0#8, 0#8, 0#8, 0x53#8, 0#8]
    let u := withPart enabled partP2
    (s.fsm = .enabled ∧ s.cfg.part.chipErase = some tplP0ChipErase ∧ s.cfg.part.pgmEnable = some tplP0PgmEnable
      ∧ 1 ≤ s.cfg.params.resyncBound ∧ tplP0PgmEnable.poll = some (2, 0x53#8) ∧ (s.response 32).byte 2 = 0x53#8
      ∧ s.NoFault (97 + (0 + 96)))
    ∧ u.fsm = .enabled ∧ u.cfg.part.chipErase = some tplP0ChipErase ∧ u.cfg.part.pgmEnable = some tplP2PgmEnable
    ∧ tplP2PgmEnable.poll = none ∧ u.NoFault (97 + (0 + 96)) :=
  ⟨⟨rfl, rfl, rfl, by decide, rfl, by decide, answering_noFault rfl _ (by decide)⟩, rfl, rfl, rfl, rfl,
    noFault_of (s := withPart enabled partP2) rfl (by decide)⟩

/-- With an empty postamble, and with one that drives two pins. -/
theorem test_witness_DisableRunsThePostamble :
    let u := withOps calm [] [.set .sck true, .set .reset false, .set .sck false]
    (enabled.fsm = .enabled ∧ enabled.NoFault enabled.cfg.disablePostamble.length)
    ∧ u.fsm = .disconnected
    ∧ (∀ q ∈ u.cfg.disablePostamble.filterMap pinOpPin?, (pinEntry u.cfg.pins q).line ≠ none)
    ∧ u.NoFault u.cfg.disablePostamble.length :=
  ⟨⟨rfl, noFault_of (s := enabled) rfl (by decide)⟩, rfl, by decide,
    noFault_of (s := withOps calm [] [.set .sck true, .set .reset false, .set .sck false]) rfl (by decide)⟩

theorem test_witness_TransportErrorEndsHostCall :
    execHostCall .initialise (failing calm 4) = .next (nextOf (execHostCall .initialise (failing calm 4)))
    ∧ (nextOf (execHostCall .initialise (failing calm 4))).results = [] ++ [.error (.transport 3)] :=
  ⟨eq_nextOf (by decide), by decide⟩

/-- A handshake that succeeds at the first attempt, and one that is exhausted at it. -/
theorem test_witness_HandshakeResultSaysPeOk :
    let s := answering calm [0#8, 0#8, 0x53#8, 0#8]
    let u := withParams (answering calm [0#8, 0#8, 0#8, 0#8]) { Config.defaultParams with resyncBound := 1 }
    (execHostCall .initialise s = .next (nextOf (execHostCall .initialise s))
      ∧ (nextOf (execHostCall .initialise s)).results = [] ++ [.ok])
    ∧ execHostCall .initialise u = .next (nextOf (execHostCall .initialise u))
    ∧ (nextOf (execHostCall .initialise u)).results = [] ++ [.error (.resyncExhausted 1)] :=
  ⟨⟨eq_nextOf (by decide), by decide⟩, eq_nextOf (by decide), by decide⟩

theorem test_witness_OnlyHandshakesWritePeOk :
    step (calm.withFetchWord 32 0x50000000) = .next (nextOf (step (calm.withFetchWord 32 0x50000000)))
    ∧ (calm.withFetchWord 32 0x50000000).pending.head? ≠ some (.host .initialise)
    ∧ (calm.withFetchWord 32 0x50000000).pending.head? ≠ some (.host .chipErase) :=
  ⟨eq_nextOf (by decide), by decide, by decide⟩

/-- An ISP word in a new session, and a host call in an enabled one. -/
theorem test_witness_StepKeepsSessionInvariants :
    (SessionInv (calm.withFetchWord 32 0x50000000)
      ∧ step (calm.withFetchWord 32 0x50000000) = .next (nextOf (step (calm.withFetchWord 32 0x50000000))))
    ∧ SessionInv { enabled with pending := [.host .disable] }
    ∧ step { enabled with pending := [.host .disable] } = .next (nextOf (step { enabled with pending := [.host .disable] })) :=
  ⟨⟨⟨.inl rfl, rfl, rfl, by decide, by decide, fun _ => by decide⟩, eq_nextOf (by decide)⟩,
    ⟨.inr (.inl rfl), rfl, rfl, by decide, by decide, fun _ => by decide⟩, eq_nextOf (by decide)⟩

/-- A step that operates all three pins. -/
theorem test_witness_StepOperatesAssignedPinsOnly : SessionInv (calm.withFetchWord 32 0x50000000)
    ∧ step (calm.withFetchWord 32 0x50000000) = .next (nextOf (step (calm.withFetchWord 32 0x50000000)))
    ∧ (newEvents (calm.withFetchWord 32 0x50000000) (nextOf (step (calm.withFetchWord 32 0x50000000)))).length = 96 :=
  ⟨⟨.inl rfl, rfl, rfl, by decide, by decide, fun _ => by decide⟩, eq_nextOf (by decide), by decide⟩

theorem test_witness_StepNeverWritesConfiguration :
    step (calm.withFetchWord 32 0x50000000) = .next (nextOf (step (calm.withFetchWord 32 0x50000000))) :=
  eq_nextOf (by decide)

theorem test_witness_PageValsReadAfterStore : Memory.wf [(3, 0x42#8), (4, 0xFF#8)] = true := by decide

end Sys2Proof.Tests
end

section
/-! PROOFS. What an exchange on the wires does where no transport call fails: the byte, the command, the addressed command
with its LOAD_EXT_ADDR; then a read of one or two bytes of a region with LOAD_EXT_ADDR. -/

namespace Sys2Proof.Machine

/-! ### An SPI exchange that does not fail (R150, R151) -/

/-- One bit time, after an exchange of `n` calls and `g` samples: sample, drive, pulse (R150). -/
theorem transmitBits_cons_exchanged {s : State} {N n : Nat} (h : s.NoFault N) (hn : n + 3 ≤ N) (b : Byte) (i : Nat)
    (rest : List Nat) (r : Byte) (g : Nat) (v : Bool) (evs : List Event) :
    transmitBits b (i :: rest) r (s.exchanged n g v evs)
      = transmitBits b rest (r ||| ((BitVec.ofBool (s.sample g)).setWidth 8 <<< i))
          (s.exchanged (n + 3) (g + 1) (b.getLsbD i)
            (evs ++ [.get .sdi (s.sample g), .set .sdo (b.getLsbD i), .pulse .sck])) := by
  have hget : (s.exchanged n g v evs).faultAt 0 = none := by simpa using h n (by omega)
  have hset : s.faultAt (n + 1) = none := h _ (by omega)
  have hpulse : s.faultAt (n + 2) = none := h _ (by omega)
  rw [transmitBits, getPin_sdi_exchanged hget, Run.bind_done, State.exchanged_exchanged,
    setPin_sdo_exchanged _ (by simpa using hset), Run.bind_done, State.exchanged_exchanged,
    pulse_exchanged _ (by simpa using hpulse), Run.bind_done, State.exchanged_exchanged]
  simp

/-- A state is its own after no call, no sample and no event. -/
theorem State.exchanged_zero (s : State) : s.exchanged 0 0 s.lvlSdo [] = s := by simp [State.exchanged]

/-- `transmit_byte`, after an exchange of `n` calls and `g` samples: it returns the next 8 samples (R98, R150). -/
theorem transmitByte_exchanged {s : State} {N n : Nat} (h : s.NoFault N) (hn : n + 24 ≤ N) (b : Byte) (g : Nat) (v : Bool)
    (evs : List Event) :
    transmitByte b (s.exchanged n g v evs) = .done (s.byteAt g)
      (s.exchanged (n + 24) (g + 8) (b.getLsbD 0) (evs ++ byteEvents b (s.byteAt g))) := by
  rw [transmitByte]
  simp (disch := omega) only [transmitBits_cons_exchanged h]
  simp [transmitBits, byteEvents, State.byteAt]

/-- `transmit_cmd` returns the response and leaves the state of the exchange (R151). -/
theorem transmitCmd_done {s : State} (c : Cmd) (h : s.NoFault 96) :
    transmitCmd c s = .done (s.response 0) (s.afterCmd c (s.response 0)) := by
  have hrun : transmitCmd c (s.exchanged 0 0 s.lvlSdo []) = .done (s.response 0) (s.afterCmd c (s.response 0)) := by
    rw [transmitCmd]
    simp (disch := decide) only [transmitByte_exchanged h, Run.bind_done]
    simp [State.afterCmd, State.response, cmdEvents]
  rwa [State.exchanged_zero] at hrun

/-! ### What a part of a call that does not fail leaves -/

@[simp] theorem withoutProgress_append (xs ys : List Event) :
    withoutProgress (xs ++ ys) = withoutProgress xs ++ withoutProgress ys := List.filter_append ..

/-- An exchange traces no progress event. -/
@[simp] theorem withoutProgress_cmdEvents (c res : Cmd) : withoutProgress (cmdEvents c res) = cmdEvents c res := by
  simp [withoutProgress, cmdEvents, byteEvents]

/-- From `s` to `t`, `calls` transport calls were made and `samples` levels drawn, and the trace grew by `evs` and by
progress events; no result was returned. -/
structure Advances (s t : State) (calls samples : Nat) (evs : List Event) : Prop where
  cfg : t.cfg = s.cfg
  results : t.results = s.results
  faultAt : ∀ k, t.faultAt k = s.faultAt (calls + k)
  sample : ∀ k, t.sample k = s.sample (samples + k)
  trace : ∃ new, t.trace = s.trace ++ new ∧ withoutProgress new = evs

theorem Advances.refl (s : State) : Advances s s 0 0 [] :=
  ⟨rfl, rfl, fun k => by rw [Nat.zero_add], fun k => by rw [Nat.zero_add], [], by simp, rfl⟩

theorem Advances.trans {s t u : State} {n g n' g' : Nat} {evs evs' : List Event} (h : Advances s t n g evs)
    (k : Advances t u n' g' evs') : Advances s u (n + n') (g + g') (evs ++ evs') := by
  obtain ⟨new, hnew, rfl⟩ := h.trace
  obtain ⟨new', hnew', rfl⟩ := k.trace
  refine ⟨k.cfg.trans h.cfg, k.results.trans h.results, fun j => ?_, fun j => ?_, new ++ new', ?_, ?_⟩
  · rw [k.faultAt, h.faultAt, Nat.add_assoc]
  · rw [k.sample, h.sample, Nat.add_assoc]
  · rw [hnew', hnew, List.append_assoc]
  · simp

/-- The calls that follow do not fail where the first `n + k` do not. -/
theorem Advances.noFault {s t : State} {n g k : Nat} {evs : List Event} (h : Advances s t n g evs)
    (hs : s.NoFault (n + k)) : t.NoFault k := fun j hj => by
  rw [h.faultAt]; exact hs _ (by omega)

/-- The responses that follow are those of the later samples. -/
theorem Advances.response {s t : State} {n g : Nat} {evs : List Event} (h : Advances s t n g evs) (k : Nat) :
    t.response k = s.response (g + k) := by
  simp [State.response, State.byteAt, h.sample, Nat.add_assoc]

/-- A command advances by its events, whatever is then written to `ext_last`. -/
theorem Advances.afterCmd (s : State) (c res : Cmd) (w : Option Nat) :
    Advances s { s.afterCmd c res with extLast := w } 96 32 (cmdEvents c res) :=
  ⟨rfl, rfl, fun k => State.faultAt_exchanged s 96 32 k (c.b3.getLsbD 0) (cmdEvents c res),
    fun k => State.sample_exchanged s 96 32 k (c.b3.getLsbD 0) (cmdEvents c res), _, rfl,
    withoutProgress_cmdEvents c res⟩

/-- A progress event is no call, no sample and no event of a claim (R310). -/
theorem Advances.progress {s t : State} {n g : Nat} {evs : List Event} (h : Advances s t n g evs) (k total : Nat) :
    Advances s (t.emit (.progress k total)) n g evs := by
  obtain ⟨new, hnew, hevs⟩ := h.trace
  exact ⟨h.cfg, h.results, h.faultAt, h.sample, new ++ [.progress k total], by simp [hnew],
    by rw [withoutProgress_append, hevs]; exact List.append_nil _⟩

/-! ### LOAD_EXT_ADDR and the addressed command (R263, R264, R268) -/

theorem window_eq_div (p : Params) (fa : Nat) : window p fa = fa / 2 ^ p.addrFieldBits :=
  Nat.shiftRight_eq_div_pow ..

/-- In the window of the last LOAD_EXT_ADDR none is sent. -/
theorem leaIfNeeded_sameWindow (m : Region) {fa : Nat} {s : State}
    (hw : s.extLast = some (fa / 2 ^ s.cfg.params.addrFieldBits)) : leaIfNeeded m fa s = .done () s := by
  unfold leaIfNeeded
  split
  · rfl
  · rw [window_eq_div, if_pos hw]

/-- In another window one is sent, and the window is noted. -/
theorem leaIfNeeded_newWindow {m : Region} {fa : Nat} {s : State} {T : Template} (hT : m.ops.loadExtAddr = some T)
    (hw : s.extLast ≠ some (fa / 2 ^ s.cfg.params.addrFieldBits)) (h : s.NoFault 96) :
    leaIfNeeded m fa s = .done () { s.afterCmd (build T (some fa) none) (s.response 0) with
      extLast := some (fa / 2 ^ s.cfg.params.addrFieldBits) } := by
  simp only [leaIfNeeded, hT, window_eq_div, if_neg hw, issue, transmitCmd_done _ h, Run.bind_done]
  rfl

/-- Where the read class is defined, `sel` gives a defined opcode for every address (R261, R262). -/
theorem regionOp_read_isSome {rn : RegionName} {m : Region} (h : undefinedRegionOp? rn m (readNeeds m) = none)
    (a : Nat) : (regionOp m (sel m .read a)).isSome := by
  have hmem : sel m .read a ∈ readNeeds m := by
    unfold sel readNeeds opClass
    split
    · rcases Nat.mod_two_eq_zero_or_one a with ha | ha <;> simp [ha]
    · simp
  have hall : ∀ o ∈ readNeeds m, (regionOp m o).isSome := by
    simpa [undefinedRegionOp?, Option.isSome_iff_ne_none] using h
  exact hall _ hmem

/-- `read_byte` is LOAD_EXT_ADDR where it is due, then the read command (R268). -/
theorem readByte_eq (rn : RegionName) {m : Region} {a : Nat} (hop : (regionOp m (sel m .read a)).isSome) (s : State) :
    readByte rn m a s = (leaIfNeeded m (fieldAddr m a) s).bind fun _ t =>
      (transmitCmd (readCmd m a) t).bind fun res u => .done (readOut m a res) u := by
  obtain ⟨T, hT⟩ := Option.isSome_iff_exists.1 hop
  simp [readByte, withOp, send, issue, Run.bind_assoc, readCmd, readOut, opOr, hT]

/-- Once LOAD_EXT_ADDR is done or was not due, the read command is sent and its output byte returned. -/
theorem readByte_after_lea (rn : RegionName) {m : Region} {a n g : Nat} {s t : State} {evs : List Event}
    (hop : (regionOp m (sel m .read a)).isSome) (hlea : leaIfNeeded m (fieldAddr m a) s = .done () t)
    (hadv : Advances s t n g evs) (h : s.NoFault (n + 96)) :
    ∃ u, readByte rn m a s = .done (readOut m a (s.response g)) u ∧ u.extLast = t.extLast
      ∧ Advances s u (n + 96) (g + 32) (evs ++ cmdEvents (readCmd m a) (s.response g)) := by
  have hres : t.response 0 = s.response g := hadv.response 0
  refine ⟨t.afterCmd (readCmd m a) (s.response g), ?_, rfl, hadv.trans (Advances.afterCmd t _ _ t.extLast)⟩
  rw [readByte_eq rn hop, hlea, Run.bind_done, transmitCmd_done _ (hadv.noFault h), Run.bind_done, hres]

/-- A byte in the window of the last LOAD_EXT_ADDR is read by the read command alone. -/
theorem readByte_sameWindow (rn : RegionName) {m : Region} {a : Nat} {s : State}
    (hop : (regionOp m (sel m .read a)).isSome)
    (hw : s.extLast = some (fieldAddr m a / 2 ^ s.cfg.params.addrFieldBits)) (h : s.NoFault 96) :
    ∃ t, readByte rn m a s = .done (readOut m a (s.response 0)) t ∧ t.extLast = s.extLast
      ∧ Advances s t 96 32 (cmdEvents (readCmd m a) (s.response 0)) :=
  readByte_after_lea rn hop (leaIfNeeded_sameWindow m hw) (.refl s) h

/-- A byte in another window is read by LOAD_EXT_ADDR and the read command. -/
theorem readByte_newWindow (rn : RegionName) {m : Region} {a : Nat} {s : State} {T : Template}
    (hop : (regionOp m (sel m .read a)).isSome) (hT : m.ops.loadExtAddr = some T)
    (hw : s.extLast ≠ some (fieldAddr m a / 2 ^ s.cfg.params.addrFieldBits)) (h : s.NoFault 192) :
    ∃ t, readByte rn m a s = .done (readOut m a (s.response 32)) t
      ∧ t.extLast = some (fieldAddr m a / 2 ^ s.cfg.params.addrFieldBits)
      ∧ Advances s t 192 64 (cmdEvents (build T (some (fieldAddr m a)) none) (s.response 0)
        ++ cmdEvents (readCmd m a) (s.response 32)) :=
  readByte_after_lea rn hop (leaIfNeeded_newWindow hT hw (h.mono (by decide))) (.afterCmd s _ _ _) h

/-! ### The loop of `read_memory` and its end (R269) -/

/-- The state `read_memory` sends its first command in: Reading, with no window known (R43, R269). -/
def State.startReading (s : State) : State := { s with fsm := .reading, extLast := none }

theorem Advances.startReading {s t : State} {n g : Nat} {evs : List Event} (h : Advances s.startReading t n g evs) :
    Advances s t n g evs := ⟨h.cfg, h.results, h.faultAt, h.sample, h.trace⟩

/-- One byte of the loop, and its progress event. -/
theorem readLoop_succ {rn : RegionName} {m : Region} {start q : Nat} (total left : Nat) {s t : State} {b : Byte}
    (h : readByte rn m (start + q) s = .done b t) :
    readLoop rn m start total (left + 1) q s
      = (readLoop rn m start total left (q + 1) (t.emit (.progress (q + 1) total))).bind fun bs u => .done (b :: bs) u := by
  rw [readLoop, h, Run.bind_done]

/-- A `read_memory` whose loop is done returns the loop's bytes, leaves `ext_last` as the loop did, and traces the loop's
events. -/
theorem readMemory_of_readLoop {s u : State} {rn : RegionName} {m : Region} {start n calls samples : Nat}
    {bs : List Byte} {evs : List Event} {w : Option Nat} (hs : s.fsm = .enabled) (hm : findRegion s rn = some m)
    (hops : undefinedRegionOp? rn m (readNeeds m) = none) (hn : start + n ≤ m.size)
    (hloop : readLoop rn m start n n 0 s.startReading = .done bs u) (hext : u.extLast = w)
    (hadv : Advances s u calls samples evs) :
    ∃ t, execHostCall (.readMemory rn start n) s = .next t ∧ t.extLast = w ∧ s.trace <+: t.trace
      ∧ t.results = s.results ++ [.bytes bs] ∧ withoutProgress (newEvents s t) = evs := by
  obtain ⟨new, hnew, hevs⟩ := hadv.trace
  refine ⟨returnResult (.bytes bs) { u with fsm := .enabled }, ?_, hext, ⟨new, hnew.symm⟩, ?_, ?_⟩
  · rw [State.startReading] at hloop
    simp [execHostCall, hostReadMemory, hs, hm, hn, checked_none hops, hloop, complete]
  · simp [hadv.results]
  · simp [newEvents, hnew, hevs]

/-! ### One byte and two bytes of a region with LOAD_EXT_ADDR (R264, R269) -/

/-- The first byte of a call is read after a LOAD_EXT_ADDR, whatever `ext_last` was before the call: the call starts with
none (R43, R264). -/
theorem readByte_first (rn : RegionName) {m : Region} {a : Nat} {s : State} {T : Template}
    (hop : (regionOp m (sel m .read a)).isSome) (hT : m.ops.loadExtAddr = some T) (h : s.NoFault 192) :
    ∃ t, readByte rn m a s.startReading = .done (readOut m a (s.response 32)) t
      ∧ t.extLast = some (fieldAddr m a / 2 ^ s.cfg.params.addrFieldBits)
      ∧ Advances s t 192 64 (cmdEvents (build T (some (fieldAddr m a)) none) (s.response 0)
        ++ cmdEvents (readCmd m a) (s.response 32)) := by
  obtain ⟨t, hread, hext, hadv⟩ := readByte_newWindow (s := s.startReading) rn hop hT (by simp [State.startReading]) h
  exact ⟨t, hread, hext, hadv.startReading⟩

/-- The loop over one byte is that byte's read. -/
theorem readLoop_one {rn : RegionName} {m : Region} {a : Nat} {b : Byte} {s t : State}
    (h : readByte rn m a s = .done b t) :
    readLoop rn m a 1 1 0 s = .done [b] (t.emit (.progress 1 1)) := readLoop_succ 1 0 h

/-- The loop over two bytes is their reads, each with its progress event. -/
theorem readLoop_two {rn : RegionName} {m : Region} {a : Nat} {b b' : Byte} {s t u : State}
    (h : readByte rn m a s = .done b t) (h' : readByte rn m (a + 1) (t.emit (.progress 1 2)) = .done b' u) :
    readLoop rn m a 2 2 0 s = .done [b, b'] (u.emit (.progress 2 2)) := by
  rw [readLoop_succ 2 1 h, readLoop_succ 2 0 h']
  rfl

/-- Settles O43: the call starts with no window known, so the first byte is read in a new one; the second is read in a new
one or in the same, by the first byte's window. -/
theorem firstReadOfCallSendsLoadExtAddr : Obligations.FirstReadOfCallSendsLoadExtAddr := by
  intro s rn m a T hs hm hops hT windowOf lea
  have hop := regionOp_read_isSome hops
  refine ⟨fun hn h => ?_, fun hn hw h => ?_, fun hn hw h => ?_⟩
  · obtain ⟨t, hread, hext, hadv⟩ := readByte_first rn (hop a) hT h
    exact readMemory_of_readLoop hs hm hops hn (readLoop_one hread) hext (hadv.progress 1 1)
  · obtain ⟨t, hread, hext, hadv⟩ := readByte_first rn (hop a) hT (h.mono (by decide))
    have hcfg := hadv.cfg
    have hadv := hadv.progress 1 2
    obtain ⟨u, hread', hext', hadv'⟩ := readByte_newWindow (s := t.emit (.progress 1 2)) rn (hop (a + 1)) hT
      (by simpa [windowOf, hext, hcfg] using hw) (hadv.noFault h)
    simp only [hadv.response, hadv.cfg, Nat.reduceAdd] at hread' hext' hadv'
    obtain ⟨v, hcall, hv, hpre, hres, hevs⟩ := readMemory_of_readLoop hs hm hops hn (readLoop_two hread hread') hext'
      ((hadv.trans hadv').progress 2 2)
    exact ⟨v, hcall, hv, hpre, hres, by rw [hevs, ← List.append_assoc]⟩
  · obtain ⟨t, hread, hext, hadv⟩ := readByte_first rn (hop a) hT (h.mono (by decide))
    have hcfg := hadv.cfg
    have hadv := hadv.progress 1 2
    obtain ⟨u, hread', hext', hadv'⟩ := readByte_sameWindow (s := t.emit (.progress 1 2)) rn (hop (a + 1))
      (by simpa [windowOf, hext, hcfg] using hw) (hadv.noFault h)
    simp only [hadv.response, Nat.reduceAdd] at hread' hadv'
    exact readMemory_of_readLoop hs hm hops hn (readLoop_two hread hread') (hext'.trans hext)
      ((hadv.trans hadv').progress 2 2)

end Sys2Proof.Machine
end

section
/-! PROOFS. The encoding on the wire: the byte exchange of the SPI engine and the transmitted frame of the TPI engine, where
no transport call fails. -/

namespace Sys2Proof.Machine

/-! ### The SPI byte (R98, R150) -/

/-- `transmit_byte` returns the next 8 samples and leaves the state of the exchange (R98, R150). -/
theorem transmitByte_done {s : State} (b : Byte) (h : s.NoFault 24) :
    transmitByte b s = .done (s.byteAt 0) (s.afterByte b (s.byteAt 0)) := by
  have hrun := transmitByte_exchanged h (n := 0) (by decide) b 0 s.lvlSdo []
  rwa [State.exchanged_zero] at hrun

/-- Settles O10: the exchange of one byte that starts in the state itself. -/
theorem transmitByteExchange : Obligations.TransmitByteExchange :=
  fun _ b h => transmitByte_done b h

/-! ### The bits of a TPI frame (R99, R175) -/

/-- One more bit changes the parity of the number of 1 bits exactly where it is 1. -/
theorem decide_count_true_cons_odd (v : Bool) (l : List Bool) :
    decide ((v :: l).count true % 2 = 1) = (v ^^ decide (l.count true % 2 = 1)) := by
  cases v with
  | false => simp
  | true =>
    rw [List.count_cons_self, Bool.true_xor, ← decide_not, decide_eq_decide]
    omega

/-- The parity bit, a chain of xors in the model, says whether the number of 1 bits is odd (R10, R175). -/
theorem tpiParity_eq (b : Byte) : tpiParity b = decide (popcount b % 2 = 1) := by
  simp only [popcount, lsbFirst, List.map_cons, List.map_nil, decide_count_true_cons_odd]
  simp [tpiParity]

/-- The frame in the spec's words: start bit, data bits, even parity, two stop bits (R99). -/
theorem tpiFrame_eq (b : Byte) :
    tpiFrame b = [false] ++ lsbFirst b ++ [decide (popcount b % 2 = 1), true, true] := by
  rw [← tpiParity_eq]
  rfl

/-! ### Transmitted bits (R171, R172) -/

/-- One transmitted bit: drive, pulse (R171). -/
theorem tpiTxBit_done {s : State} (v : Bool) (h : s.NoFault 2) :
    tpiTxBit v s = .done () (s.exchanged 2 0 v (tpiTxEvents [v])) := by
  have hset : s.faultAt 0 = none := h 0 (by decide)
  have hpulse : s.faultAt 1 = none := h 1 (by decide)
  rw [tpiTxBit, setPin_sdo_exchanged v hset, Run.bind_done, pulse_exchanged _ (by simpa using hpulse),
    State.exchanged_exchanged]
  rfl

/-- Transmitted bits take two calls each and leave `Sdo` at the last bit. -/
theorem tpiTxBits_done (bits : List Bool) {s : State} (h : s.NoFault (2 * bits.length)) :
    tpiTxBits bits s
      = .done () (s.exchanged (2 * bits.length) 0 (bits.getLastD s.lvlSdo) (tpiTxEvents bits)) := by
  induction bits generalizing s with
  | nil => exact congrArg _ s.exchanged_zero.symm
  | cons v rest ih =>
    have hlen : 2 * (v :: rest).length = 2 + 2 * rest.length := by rw [List.length_cons]; omega
    rw [hlen] at h ⊢
    rw [tpiTxBits, tpiTxBit_done v (h.mono (by omega)), Run.bind_done, ih (State.noFault_exchanged h _ _ _),
      State.exchanged_exchanged, State.exchanged_lvlSdo, List.getLastD_cons]
    rfl

/-- Settles O15: the 12 bits of the frame are sent one after another, the last of them a stop bit. -/
theorem tpiFrameIsSent : Obligations.TpiFrameIsSent := by
  intro s b h
  rw [← tpiFrame_eq, txByte]
  exact tpiTxBits_done (tpiFrame b) h

end Sys2Proof.Machine
end

section
/-! PROOFS. PinTransport: what each of its four calls leaves, where it does not fail and where it does (40_pin_transport.md
R130 to R136). -/

namespace Sys2Proof.Machine

/-! ### Levels read back (R31, R130) -/

theorem auxLevel_setAux_same (l : List (Pin × Bool)) (p : Pin) (v : Bool) : auxLevel (setAux l p v) p = some v := by
  induction l with
  | nil => simp [setAux, auxLevel]
  | cons e rest ih => by_cases h : e.1 = p <;> simp [setAux, auxLevel, h, ih]

theorem auxLevel_setAux_ne (l : List (Pin × Bool)) {p q : Pin} (hq : q ≠ p) (v : Bool) :
    auxLevel (setAux l p v) q = auxLevel l q := by
  induction l with
  | nil => simp [setAux, auxLevel, hq.symm]
  | cons e rest ih =>
    by_cases h : e.1 = p
    · simp [setAux, auxLevel, h, hq.symm]
    · simp [setAux, auxLevel, h, ih]

@[simp] theorem State.lvl_setLvl_same (s : State) (p : Pin) (v : Bool) : (s.setLvl p v).lvl p = some v := by
  cases p with
  | sck | sdo => rfl
  | _ => exact auxLevel_setAux_same s.lvlAux _ v

theorem State.lvl_setLvl_ne (s : State) {p q : Pin} (hq : q ≠ p) (v : Bool) : (s.setLvl p v).lvl q = s.lvl q := by
  cases p with
  | sck => cases q with
    | sck => exact absurd rfl hq
    | _ => rfl
  | sdo => cases q with
    | sdo => exact absurd rfl hq
    | _ => rfl
  | _ => cases q with
    | sck | sdo => rfl
    | _ => exact auxLevel_setAux_ne s.lvlAux hq v

@[simp] theorem State.lvl_emit (s : State) (ev : Event) (q : Pin) : (s.emit ev).lvl q = s.lvl q := by cases q <;> rfl

@[simp] theorem State.lvl_drawFault (s : State) (q : Pin) : s.drawFault.lvl q = s.lvl q := by cases q <;> rfl

@[simp] theorem State.lvl_drawLevel (s : State) (q : Pin) : s.drawLevel.lvl q = s.lvl q := by cases q <;> rfl

/-! ### The draws of levels (R70, log 3) -/

@[simp] theorem State.level_emit (s : State) (ev : Event) (n : Nat) : (s.emit ev).level n = s.level n := rfl

@[simp] theorem State.level_drawFault (s : State) (n : Nat) : s.drawFault.level n = s.level n := rfl

/-- A draw made, the draws that follow are those that came after it. -/
@[simp] theorem State.level_drawLevel (s : State) (n : Nat) : s.drawLevel.level n = s.level (n + 1) := by
  have hdraws : s.sdiDraws + 1 + n = s.sdiDraws + (n + 1) := by omega
  simp [State.level, List.getElem?_tail, hdraws]

/-! ### The obligations -/

/-- Settles O7, by the two outcomes of the transport call. -/
theorem setDrivesTheLevel : Obligations.SetDrivesTheLevel := by
  intro s p v
  refine ⟨fun hok => ?_, fun e he => ?_⟩
  · refine ⟨_, transportCall_ok (s.nextFault_eq.trans hok), by simp, by simp [State.line], by simp, by simp,
      fun q hq => ?_⟩
    rw [State.lvl_emit, State.lvl_setLvl_ne _ hq, State.lvl_drawFault]
  · exact ⟨_, transportCall_fails (s.nextFault_eq.trans he), rfl, rfl, s.lvl_drawFault⟩

/-- Settles O8, by the two outcomes of the transport call. -/
theorem getSamplesTheEnvironment : Obligations.GetSamplesTheEnvironment := by
  intro s p
  refine ⟨fun hok => ?_, fun e he => ?_⟩
  · rw [State.level_zero]
    exact ⟨_, transportCall_ok (s.nextFault_eq.trans hok), rfl, rfl, by simp, by simp⟩
  · exact ⟨_, transportCall_fails (s.nextFault_eq.trans he), rfl, rfl, s.lvl_drawFault, s.level_drawFault⟩

/-- Settles O9, by the two outcomes of either transport call. -/
theorem pulseAndDelayKeepLevels : Obligations.PulseAndDelayKeepLevels := by
  intro s p us
  refine ⟨fun hok => ⟨?_, ?_⟩, fun e he => ⟨?_, ?_⟩⟩
  · exact ⟨_, transportCall_ok (s.nextFault_eq.trans hok), rfl, rfl, by simp⟩
  · exact ⟨_, transportCall_ok (s.nextFault_eq.trans hok), rfl, rfl, by simp⟩
  · exact ⟨_, transportCall_fails (s.nextFault_eq.trans he), rfl, s.lvl_drawFault⟩
  · exact ⟨_, transportCall_fails (s.nextFault_eq.trans he), rfl, s.lvl_drawFault⟩

end Sys2Proof.Machine
end

section
/-! PROOFS. An ISP instruction as one checked exchange of its word (43_isp_codec.md R104), the first unassigned pin that a
request reports (R135, R338), and an exchange one of whose transport calls fails (R136). -/

namespace Sys2Proof.Machine

/-! ### What the 30 instructions have in common (R104, R210 to R222) -/

/-- The exchange of a command, then its result; `w` is what the instruction leaves in `ext_last`. -/
def ispExchange (c : Cmd) (r : Cmd → CallResult) (w : State → Option Nat) (s : State) : Run CallResult :=
  (transmitCmd c s).bind fun res t => .done (r res) { t with extLast := w t }

/-- An instruction checks its pins and exchanges its own word: only what it reads from the response and, of LOAD_EXT_ADDR,
what it leaves in `ext_last` differ. -/
theorem exec_eq_ispExchange (i : Instr) :
    ∃ r w, ∀ s, exec i s = .next (checked (checkWires s.cfg) s (ispExchange (encode i) r w)) := by
  cases i with
  | p1FlashLoadExtAddr fa => exact ⟨fun _ => .ok, fun t => some (window t.cfg.params fa), fun _ => rfl⟩
  | _ => exact ⟨_, State.extLast, fun _ => rfl⟩

/-! ### The first unassigned pin (R135, R338) -/

/-- A request whose check names the pins it operates reports the first of them that is unassigned, and does nothing else. -/
theorem checked_firstUnassigned {s : State} {check : Option Err} {body : State → Run CallResult} {before after : List Pin}
    {p : Pin} (hcheck : check = unassignedAmong? s.cfg (before ++ p :: after))
    (hb : ∀ q ∈ before, (pinEntry s.cfg.pins q).line ≠ none) (hp : (pinEntry s.cfg.pins p).line = none) :
    checked check s body = returnResult (.error (.unassignedPin p)) s :=
  checked_config (hcheck.trans (unassignedAmong?_first rfl hb hp)) (.inl ⟨p, rfl⟩)

/-- Of `initialise` the check of the pins comes first (R261). -/
theorem checkInitialise_of_unassigned {c : Configuration} {e : Err} (h : unassignedPin? c = some e) :
    checkInitialise c = some e := by rw [checkInitialise, h, Option.some_or]

/-- Settles O36: each request's check is of the pins it operates, in the order of the required pins. -/
theorem firstUnassignedPinIsReported : Obligations.FirstUnassignedPinIsReported := by
  intro s before after p hb hp
  refine ⟨fun hf hpins => ?initialise, fun hf hpins => ?disable, fun hpins => ?exchange, fun hpins => ?send⟩
  case initialise =>
    have hfirst : unassignedPin? s.cfg = some (.unassignedPin p) := unassignedAmong?_first hpins hb hp
    rw [execHostCall, hostInitialise, if_pos hf,
      checked_config (checkInitialise_of_unassigned hfirst) (.inl ⟨p, rfl⟩)]
  case disable =>
    have hcheck : checkDisable s.cfg = unassignedAmong? s.cfg (before ++ p :: after) := by rw [← hpins]; rfl
    rw [execHostCall, hostDisable, if_pos hf, checked_firstUnassigned hcheck hb hp]
  case exchange =>
    have hcheck : checkWires s.cfg = unassignedAmong? s.cfg (before ++ p :: after) := by rw [← hpins]; rfl
    have hcall (c : EngineCall) (hc : enginePins c = wirePins) :
        execEngineCall c s = .next (returnResult (.error (.unassignedPin p)) s) := by
      rw [execEngineCall, checked_firstUnassigned (by rw [checkEngine, hc]; exact hcheck) hb hp]
    refine ⟨fun i => ?_, fun _ => hcall _ rfl, fun _ => hcall _ rfl, hcall _ rfl, fun tx n => hcall _ ?_⟩
    · obtain ⟨r, w, hi⟩ := exec_eq_ispExchange i
      rw [hi, checked_firstUnassigned hcheck hb hp]
    · simp [enginePins, wirePins]
  case send =>
    have hcall (c : EngineCall) (hc : enginePins c = [.sck, .sdo]) :
        execEngineCall c s = .next (returnResult (.error (.unassignedPin p)) s) := by
      rw [execEngineCall, checked_firstUnassigned (by rw [checkEngine, hc, hpins]) hb hp]
    exact ⟨fun _ => hcall _ rfl, fun _ _ => hcall _ rfl⟩

/-! ### An exchange that fails (R136) -/

/-- The events of the bit times of the listed bit indexes, from sample `g` on (R150). -/
def bitEvents (s : State) (b : Byte) : List Nat → Nat → List Event
  | [], _ => []
  | i :: rest, g => .get .sdi (s.sample g) :: .set .sdo (b.getLsbD i) :: .pulse .sck :: bitEvents s b rest (g + 1)

/-- The events of a byte are those of its bit times, most significant bit first (R63). -/
theorem byteEvents_byteAt (s : State) (b : Byte) (g : Nat) :
    byteEvents b (s.byteAt g) = bitEvents s b [7, 6, 5, 4, 3, 2, 1, 0] g := by
  simp [byteEvents, bitEvents, State.byteAt]

@[simp] theorem length_byteEvents (b r : Byte) : (byteEvents b r).length = 24 := rfl

/-- `r` raises the backend's error at call `k`: the calls before it were made, and traced `evs`. -/
def FailsAt {α : Type} (s : State) (k e : Nat) (evs : List Event) (r : Run α) : Prop :=
  ∃ g v, r = .raised (.transport e) (s.exchanged (k + 1) g v evs)

/-- The part that fails ends what it is a part of. -/
theorem FailsAt.bind {α β : Type} {s : State} {k e : Nat} {evs : List Event} {r : Run α} (h : FailsAt s k e evs r)
    (f : α → State → Run β) : FailsAt s k e evs (r.bind f) := by
  obtain ⟨g, v, rfl⟩ := h
  exact ⟨g, v, rfl⟩

/-- A transport call that is call `k` and fails traces nothing more. -/
theorem transportCall_failsAt {α : Type} {s : State} {k e : Nat} (h : s.faultAt k = some e) (g : Nat) (v : Bool)
    (evs : List Event) (effect : State → Run α) :
    FailsAt s k e evs (transportCall (s.exchanged k g v evs) effect) := by
  refine ⟨g, v, ?_⟩
  rw [transportCall_fails (by rw [State.nextFault_eq, State.faultAt_exchanged]; exact h), State.drawFault_eq,
    State.exchanged_exchanged, State.exchanged_lvlSdo, List.append_nil]
  rfl

/-- One of the listed bit times holds the failing call: the bit times before it are whole, and of its own the calls before
the failing one are made. -/
theorem transmitBits_failsAt {s : State} {k e : Nat} (h : s.FaultAt k e) (b : Byte) (is : List Nat) {n : Nat}
    (hn : n ≤ k) (hk : k < n + 3 * is.length) (r : Byte) (g : Nat) (v : Bool) (evs : List Event) :
    FailsAt s k e (evs ++ (bitEvents s b is g).take (k - n)) (transmitBits b is r (s.exchanged n g v evs)) := by
  induction is generalizing n r g v evs with
  | nil => simp at hk; omega
  | cons i rest ih =>
    obtain ⟨hok, hfault⟩ := h
    have hnone (j : Nat) (hj : j < k) : s.faultAt j = none := hok j hj
    obtain hget | hset | hpulse | hlater : k = n ∨ k = n + 1 ∨ k = n + 2 ∨ n + 3 ≤ k := by omega
    · subst hget
      rw [Nat.sub_self, List.take_zero, List.append_nil]
      exact (transportCall_failsAt hfault g v evs _).bind _
    · subst hset
      rw [transmitBits, getPin_sdi_exchanged (by simpa using hnone n (by omega)), Run.bind_done,
        State.exchanged_exchanged, State.sample_exchanged, Nat.add_sub_cancel_left]
      exact (transportCall_failsAt hfault (g + 1) _ _ _).bind _
    · subst hpulse
      rw [transmitBits, getPin_sdi_exchanged (by simpa using hnone n (by omega)), Run.bind_done,
        State.exchanged_exchanged, setPin_sdo_exchanged _ (by simpa using hnone (n + 1) (by omega)), Run.bind_done,
        State.exchanged_exchanged, State.sample_exchanged, Nat.add_sub_cancel_left, List.append_assoc]
      exact (transportCall_failsAt hfault (g + 1) _ _ _).bind _
    · have hlen : k < n + 3 + 3 * rest.length := by simp at hk; omega
      obtain ⟨j, rfl⟩ := Nat.exists_eq_add_of_le hlater
      rw [transmitBits_cons_exchanged hok hlater]
      have hnext := ih hlater hlen (r ||| ((BitVec.ofBool (s.sample g)).setWidth 8 <<< i)) (g + 1) (b.getLsbD i)
        (evs ++ [.get .sdi (s.sample g), .set .sdo (b.getLsbD i), .pulse .sck])
      have hstep : n + 3 + j - n = j + 3 := by omega
      rw [Nat.add_sub_cancel_left, List.append_assoc] at hnext
      rw [hstep]
      exact hnext

/-- A byte, and what is exchanged after it: the failing call is one of the byte's 24, or the byte is whole and the failing
call comes later. -/
theorem transmitByte_bind_failsAt {β : Type} {s : State} {k e n : Nat} (h : s.FaultAt k e) (hn : n ≤ k) {b : Byte}
    {g : Nat} {v : Bool} {evs later : List Event} {f : Byte → State → Run β}
    (hlater : n + 24 ≤ k → FailsAt s k e (evs ++ byteEvents b (s.byteAt g) ++ later.take (k - (n + 24)))
      (f (s.byteAt g) (s.exchanged (n + 24) (g + 8) (b.getLsbD 0) (evs ++ byteEvents b (s.byteAt g))))) :
    FailsAt s k e (evs ++ (byteEvents b (s.byteAt g) ++ later).take (k - n))
      ((transmitByte b (s.exchanged n g v evs)).bind f) := by
  rcases Nat.lt_or_ge k (n + 24) with hk | hk
  · have hbyte := transmitBits_failsAt h b [7, 6, 5, 4, 3, 2, 1, 0] hn hk 0#8 g v evs
    rw [← byteEvents_byteAt] at hbyte
    rw [List.take_append_of_le_length (by rw [length_byteEvents]; omega)]
    exact hbyte.bind f
  · have htake : k - n = (byteEvents b (s.byteAt g)).length + (k - (n + 24)) := by rw [length_byteEvents]; omega
    rw [transmitByte_exchanged h.1 hk, Run.bind_done, htake, List.take_length_add_append, ← List.append_assoc]
    exact hlater hk

/-- A command one of whose 96 calls fails: the bytes before the failing call are whole. -/
theorem transmitCmd_failsAt {s : State} {k e : Nat} (h : s.FaultAt k e) (hk : k < 96) (c : Cmd) :
    FailsAt s k e ((cmdEvents c (s.response 0)).take k) (transmitCmd c s) := by
  have hbytes : FailsAt s k e
      ([] ++ (byteEvents c.b0 (s.byteAt 0) ++ (byteEvents c.b1 (s.byteAt 8) ++ (byteEvents c.b2 (s.byteAt 16)
        ++ (byteEvents c.b3 (s.byteAt 24) ++ [])))).take (k - 0))
      (transmitCmd c (s.exchanged 0 0 s.lvlSdo [])) :=
    transmitByte_bind_failsAt h (Nat.zero_le k) fun h₁ => transmitByte_bind_failsAt h h₁ fun h₂ =>
      transmitByte_bind_failsAt h h₂ fun h₃ => transmitByte_bind_failsAt h h₃ fun h₄ => by omega
  rw [State.exchanged_zero] at hbytes
  simpa [cmdEvents, State.response] using hbytes

/-- Settles O30: the word's exchange fails at call `k`, and the error ends the instruction. -/
theorem ispTransportErrorEndsInstruction : Obligations.IspTransportErrorEndsInstruction := by
  intro i s k e hwires hk hfault
  obtain ⟨r, w, hi⟩ := exec_eq_ispExchange i
  obtain ⟨g, v, hfail⟩ := (transmitCmd_failsAt hfault hk (encode i)).bind fun res t =>
    .done (r res) { t with extLast := w t }
  refine ⟨_, hi s, ?_⟩
  have hcheck : checkWires s.cfg = none := unassignedAmong?_eq_none.2 hwires
  rw [checked_none hcheck, ispExchange, hfail]
  exact ⟨rfl, rfl, rfl, rfl, rfl, rfl, rfl, rfl⟩

end Sys2Proof.Machine
end

section
/-! PROOFS. One walk through every part of every call, for any predicate of the state that the transport calls and the
updates of the session registers keep, and for any set of errors that holds those the part can raise; and what a step runs,
said once. -/

namespace Sys2Proof.Machine

/-! ### How a part of a call ends -/

/-- Whichever way a part of a call ends, it leaves `P` true; an error it raises is one of `E`. -/
def Run.Ends {α : Type} (P : State → Prop) (E : Err → Prop) : Run α → Prop
  | .done _ s => P s
  | .raised e s => P s ∧ E e

section
variable {α β : Type} {P Q : State → Prop} {E : Err → Prop}

theorem Run.Ends.bind {r : Run α} {k : α → State → Run β} (h : r.Ends P E) (hk : ∀ a s, P s → (k a s).Ends P E) :
    (r.bind k).Ends P E := by
  cases r with
  | done a s => exact hk a s h
  | raised e s => exact h

theorem Run.Ends.mono {r : Run α} (h : r.Ends P E) (hpq : ∀ s, P s → Q s) : r.Ends Q E := by
  cases r with
  | done a s => exact hpq s h
  | raised e s => exact ⟨hpq s h.1, h.2⟩

theorem Run.Ends.leaves {r : Run α} (h : r.Ends P E) : r.Leaves P := by
  cases r with
  | done a s => exact h
  | raised e s => exact h.1

theorem Run.Ends.and_leaves {r : Run α} (h : r.Ends P E) (k : r.Leaves Q) : r.Ends (fun t => P t ∧ Q t) E := by
  cases r with
  | done a s => exact ⟨h, k⟩
  | raised e s => exact ⟨⟨h.1, k⟩, h.2⟩

/-- A bind after a first part of which more is known than the whole has to keep. -/
theorem Run.Ends.bind_and {r : Run α} {k : α → State → Run β} (h : r.Ends P E) (hq : r.Leaves Q)
    (hk : ∀ a s, P s → Q s → (k a s).Ends P E) : (r.bind k).Ends P E := by
  cases r with
  | done a s => exact hk a s h hq
  | raised e s => exact h

end

/-! ### Predicates that the parts of a call keep -/

/-- `P` is kept by the transport calls that operate pins of `A` and by what a command writes to `ext_last`; a transport
error is one of `E`. -/
structure KeptByCommands (A : Pin → Prop) (P : State → Prop) (E : Err → Prop) : Prop where
  draws : ∀ {s}, P s → P s.drawFault
  samples : ∀ {s}, P s → P s.drawLevel
  drivesSdo : ∀ {s} v, P s → P (s.setLvl .sdo v)
  traces : ∀ {s} ev, (∀ p, eventPin? ev = some p → A p) → P s → P (s.emit ev)
  extLast : ∀ {s} w, P s → P { s with extLast := w }
  transport : ∀ e, E (.transport e)

/-- `P` is kept by what the host calls write to the other session registers: the counters within their bounds. What they
write to `page_vals` is left out. -/
structure KeptByHostCalls (A : Pin → Prop) (P : State → Prop) (E : Err → Prop) : Prop extends KeptByCommands A P E where
  fsm : ∀ {s} f, P s → P { s with fsm := f }
  cursor : ∀ {s} q, P s → P { s with cursor := q }
  clearPoll : ∀ {s}, P s → P s.clearPoll
  countPoll : ∀ {s}, s.pollTries < s.cfg.params.pollBound → P s → P s.countPoll
  clearHandshake : ∀ {s}, P s → P s.clearHandshake
  countResync : ∀ {s}, s.resyncTries < s.cfg.params.resyncBound → P s → P s.countResync
  handshakeOk : ∀ {s}, P s → P s.handshakeOk
  handshakeFailed : ∀ {s}, P s → P s.handshakeFailed

/-- The configuration and the counters, which no command and no pin operation writes. -/
structure SameCounters (s t : State) : Prop where
  cfg : t.cfg = s.cfg
  resyncTries : t.resyncTries = s.resyncTries
  pollTries : t.pollTries = s.pollTries

theorem SameSession.counters {s t : State} (h : SameSession s t) : SameCounters s t :=
  ⟨h.cfg, h.resyncTries, h.pollTries⟩

/-- Commands keep the counters, whatever pins they operate and however they end. -/
theorem sameCounters_keptByCommands (s : State) : KeptByCommands (fun _ => True) (SameCounters s) fun _ => True where
  draws h := { h with }
  samples h := { h with }
  drivesSdo _ h := { h with }
  traces _ _ h := { h with }
  extLast _ h := { h with }
  transport _ := trivial

/-- No command reads or writes the level of `Sck`: a pulse restores it (R132). -/
theorem KeptByCommands.apartFromSck {A : Pin → Prop} {P : State → Prop} {E : Err → Prop} (h : KeptByCommands A P E)
    (v : Bool) : KeptByCommands A (fun t => P { t with lvlSck := v }) E where
  draws ht := h.draws ht
  samples ht := h.samples ht
  drivesSdo u ht := h.drivesSdo u ht
  traces ev hev ht := h.traces ev hev ht
  extLast w ht := h.extLast w ht
  transport := h.transport

/-! ### Transport calls and exchanges -/

section
variable {A : Pin → Prop} {P : State → Prop} {E : Err → Prop}

section
variable {s : State} (h : KeptByCommands A P E) (hs : P s)
include h hs

theorem transportCall_ends {α : Type} {effect : State → Run α} (he : P s.drawFault → (effect s.drawFault).Ends P E) :
    (transportCall s effect).Ends P E := by
  unfold transportCall
  split
  · exact ⟨h.draws hs, h.transport _⟩
  · exact he (h.draws hs)

theorem setPin_ends {p : Pin} (hp : A p) (v : Bool) (hset : ∀ {t}, P t → P (t.setLvl p v)) : (setPin p v s).Ends P E :=
  transportCall_ends h hs fun hs => h.traces (.set p v) (fun _ hq => Option.some.inj hq ▸ hp) (hset hs)

theorem setPin_sdo_ends (hp : A .sdo) (v : Bool) : (setPin .sdo v s).Ends P E := setPin_ends h hs hp v (h.drivesSdo v)

theorem getPin_ends {p : Pin} (hp : A p) : (getPin p s).Ends P E :=
  transportCall_ends h hs fun hs => h.traces _ (fun _ hq => Option.some.inj hq ▸ hp) (h.samples hs)

theorem pulse_ends {p : Pin} (hp : A p) : (pulse p s).Ends P E :=
  transportCall_ends h hs fun hs => h.traces _ (fun _ hq => Option.some.inj hq ▸ hp) hs

theorem delay_ends (us : Nat) : (delay us s).Ends P E :=
  transportCall_ends h hs fun hs => h.traces _ (fun _ hq => nomatch hq) hs

/-- A progress event operates no pin. -/
theorem KeptByCommands.progress (k total : Nat) : P (s.emit (.progress k total)) :=
  h.traces _ (fun _ hq => nomatch hq) hs

end

section
variable (h : KeptByCommands A P E) (hw : ∀ p ∈ wirePins, A p)
include h hw

theorem transmitBits_ends (b : Byte) (is : List Nat) (r : Byte) {s : State} (hs : P s) :
    (transmitBits b is r s).Ends P E := by
  induction is generalizing r s with
  | nil => exact hs
  | cons i rest ih =>
    exact (getPin_ends h hs (hw _ (by decide))).bind fun v s₁ h₁ =>
      (setPin_sdo_ends h h₁ (hw _ (by decide)) _).bind fun _ s₂ h₂ =>
        (pulse_ends h h₂ (hw _ (by decide))).bind fun _ s₃ h₃ => ih _ h₃

theorem transmitByte_ends (b : Byte) {s : State} (hs : P s) : (transmitByte b s).Ends P E :=
  transmitBits_ends h hw b _ _ hs

theorem transmitCmd_ends (c : Cmd) {s : State} (hs : P s) : (transmitCmd c s).Ends P E :=
  (transmitByte_ends h hw _ hs).bind fun _ _ h₁ => (transmitByte_ends h hw _ h₁).bind fun _ _ h₂ =>
    (transmitByte_ends h hw _ h₂).bind fun _ _ h₃ => (transmitByte_ends h hw _ h₃).bind fun _ _ h₄ => h₄

theorem issue_ends (T : Template) (addr : Option Nat) (input : Option Byte) {s : State} (hs : P s) :
    (issue T addr input s).Ends P E := transmitCmd_ends h hw _ hs

theorem ispExchange_ends (c : Cmd) (r : Cmd → CallResult) (w : State → Option Nat) {s : State} (hs : P s) :
    (ispExchange c r w s).Ends P E :=
  (transmitCmd_ends h hw c hs).bind fun _ _ h₁ => h.extLast _ h₁

end

/-! ### The TPI framer -/

section
variable (h : KeptByCommands A P E)
include h

theorem tpiTxBits_ends (hsck : A .sck) (hsdo : A .sdo) (bits : List Bool) {s : State} (hs : P s) :
    (tpiTxBits bits s).Ends P E := by
  induction bits generalizing s with
  | nil => exact hs
  | cons v rest ih =>
    exact ((setPin_sdo_ends h hs hsdo v).bind fun _ _ h₁ => pulse_ends h h₁ hsck).bind fun _ _ h₂ => ih h₂

/-- No byte sent operates no pin. -/
theorem txBytes_ends (tx : List Byte) (hA : tx ≠ [] → A .sck ∧ A .sdo) {s : State} (hs : P s) :
    (txBytes tx s).Ends P E := by
  induction tx generalizing s with
  | nil => exact hs
  | cons b rest ih =>
    obtain ⟨hsck, hsdo⟩ := hA (List.cons_ne_nil b rest)
    exact (tpiTxBits_ends h hsck hsdo _ hs).bind fun _ _ h₁ => ih (fun _ => ⟨hsck, hsdo⟩) h₁

variable (hw : ∀ p ∈ wirePins, A p)

section
include hw

theorem tpiRxBit_ends {s : State} (hs : P s) : (tpiRxBit s).Ends P E :=
  (getPin_ends h hs (hw _ (by decide))).bind fun _ _ h₁ =>
    (pulse_ends h h₁ (hw _ (by decide))).bind fun _ _ h₂ => h₂

theorem awaitStart_ends (k : Nat) {s : State} (hs : P s) : (awaitStart k s).Ends P E := by
  induction k generalizing s with
  | zero => exact hs
  | succ k ih =>
    refine (tpiRxBit_ends h hw hs).bind fun v _ h₁ => ?_
    cases v with
    | false => exact h₁
    | true => exact ih h₁

theorem tpiRxData_ends (ns : List Nat) (d : Byte) {s : State} (hs : P s) : (tpiRxData ns d s).Ends P E := by
  induction ns generalizing d s with
  | nil => exact hs
  | cons n rest ih => exact (tpiRxBit_ends h hw hs).bind fun _ _ h₁ => ih _ h₁

variable (hE : ∀ k, E (.frame k))
include hE

theorem rxByte_ends {s : State} (hs : P s) : (rxByte s).Ends P E := by
  refine (setPin_sdo_ends h hs (hw _ (by decide)) true).bind fun _ _ h₁ => (awaitStart_ends h hw _ h₁).bind
    fun _ _ h₂ => ?_
  split
  · exact ⟨h₂, hE _⟩
  refine (tpiRxData_ends h hw _ _ h₂).bind fun _ _ h₃ => (tpiRxBit_ends h hw h₃).bind fun _ _ h₄ => ?_
  split
  · exact ⟨h₄, hE _⟩
  refine (tpiRxBit_ends h hw h₄).bind fun _ _ h₅ => (tpiRxBit_ends h hw h₅).bind fun _ _ h₆ => ?_
  split
  · exact ⟨h₆, hE _⟩
  · exact h₆

theorem rxBytes_ends (n : Nat) {s : State} (hs : P s) : (rxBytes n s).Ends P E := by
  induction n generalizing s with
  | zero => exact hs
  | succ n ih => exact (rxByte_ends h hw hE hs).bind fun _ _ h₁ => (ih h₁).bind fun _ _ h₂ => h₂

end

/-- `cmd_tpi` operates the pins its check names: none for nothing, `Sdi` only to receive. -/
theorem cmdTpi_ends (hE : ∀ k, E (.frame k)) (tx : List Byte) (n : Nat) (hA : ∀ p ∈ enginePins (.cmdTpi tx n), A p)
    {s : State} (hs : P s) : (cmdTpi tx n s).Ends P E := by
  refine (txBytes_ends h tx (fun htx => ?_) hs).bind fun _ s₁ h₁ => ?_
  · exact ⟨hA _ (by simp [enginePins, htx]), hA _ (by simp [enginePins, htx])⟩
  · cases n with
    | zero => exact h₁
    | succ n => exact rxBytes_ends h (by simpa [enginePins, wirePins] using hA) hE _ h₁

theorem engineBody_ends (hE : ∀ k, E (.frame k)) (c : EngineCall) (hA : ∀ p ∈ enginePins c, A p) {s : State}
    (hs : P s) : (engineBody c s).Ends P E := by
  cases c with
  | transmitByte b => exact (transmitByte_ends h hA b hs).bind fun _ _ h₁ => h₁
  | transmitCmd c => exact (transmitCmd_ends h hA c hs).bind fun _ _ h₁ => h₁
  | txByte b =>
    exact (tpiTxBits_ends h (hA .sck (by simp [enginePins])) (hA .sdo (by simp [enginePins])) _ hs).bind fun _ _ h₁ => h₁
  | rxByte => exact (rxByte_ends h hA hE hs).bind fun _ _ h₁ => h₁
  | cmdTpi tx n => exact (cmdTpi_ends h hE tx n hA hs).bind fun _ _ h₁ => h₁

/-! ### The preamble and the postamble -/

section
variable (hset : ∀ {s} p v, P s → P (s.setLvl p v))
include hset

theorem runPinOps_ends (ops : List PinOp) (hA : ∀ p ∈ ops.filterMap pinOpPin?, A p) {s : State} (hs : P s) :
    (runPinOps ops s).Ends P E := by
  induction ops generalizing s with
  | nil => exact hs
  | cons op rest ih =>
    have hrest : ∀ p ∈ rest.filterMap pinOpPin?, A p := fun p hp => by
      obtain ⟨o, ho, hop⟩ := List.mem_filterMap.1 hp
      exact hA p (List.mem_filterMap.2 ⟨o, List.mem_cons_of_mem _ ho, hop⟩)
    have hop : (runPinOp op s).Ends P E := by
      cases op with
      | set p v => exact setPin_ends h hs (hA p (by simp [pinOpPin?])) v (hset p v)
      | pulse p => exact pulse_ends h hs (hA p (by simp [pinOpPin?]))
      | delay us => exact delay_ends h hs us
    exact hop.bind fun _ _ h₁ => ih hrest h₁

/-- The level that `Sck` returns to after a transport error is one more level written. -/
theorem runPinList_ends (ops : List PinOp) (hA : ∀ p ∈ ops.filterMap pinOpPin?, A p) {s : State} (hs : P s) :
    (runPinList ops s).Ends P E := by
  have k := runPinOps_ends h hset ops hA hs
  rcases runPinList_cases ops s with ⟨t, h₁, h₂⟩ | ⟨e, t, h₁, h₂⟩ <;> rw [h₁] at k <;> rw [h₂]
  · exact k
  · exact ⟨hset .sck s.lvlSck k.1, k.2⟩

end
end

theorem runPinList_counters (ops : List PinOp) (s : State) : (runPinList ops s).Leaves (SameCounters s) :=
  (runPinList_ends (sameCounters_keptByCommands s)
    (fun _ _ h => ⟨by simp [h.cfg], by simp [h.resyncTries], by simp [h.pollTries]⟩) ops (fun _ _ => trivial)
    ⟨rfl, rfl, rfl⟩).leaves

/-! ### Addressed commands (R263, R264, R268) -/

section
variable (h : KeptByCommands A P E) (hw : ∀ p ∈ wirePins, A p)
include h hw

theorem leaIfNeeded_ends (m : Region) (fa : Nat) {s : State} (hs : P s) : (leaIfNeeded m fa s).Ends P E := by
  unfold leaIfNeeded
  split
  · exact hs
  · split
    · exact hs
    · exact (issue_ends h hw _ _ _ hs).bind fun _ _ h₁ => h.extLast _ h₁

theorem send_ends (m : Region) (T : Template) (a : Nat) (d : Option Byte) {s : State} (hs : P s) :
    (send m T a d s).Ends P E :=
  (leaIfNeeded_ends h hw m _ hs).bind fun _ _ h₁ => issue_ends h hw _ _ _ h₁

omit h hw in
/-- A defined opcode is used, and no error is raised for it. -/
theorem withOp_ends {α : Type} (rn : RegionName) {m : Region} {o : OpName} (ho : (regionOp m o).isSome)
    {k : Template → State → Run α} {s : State} (hk : ∀ T, (k T s).Ends P E) : (withOp rn m o k s).Ends P E := by
  obtain ⟨T, hT⟩ := Option.isSome_iff_exists.1 ho
  simpa [withOp, hT] using hk T

theorem readByte_ends (rn : RegionName) {m : Region} {a : Nat} (ho : (regionOp m (sel m .read a)).isSome) {s : State}
    (hs : P s) : (readByte rn m a s).Ends P E :=
  withOp_ends rn ho fun T => (send_ends h hw m T a none hs).bind fun _ _ h₁ => h₁

end

theorem readByte_counters (rn : RegionName) {m : Region} {a : Nat} (ho : (regionOp m (sel m .read a)).isSome)
    (s : State) : (readByte rn m a s).Leaves (SameCounters s) :=
  (readByte_ends (sameCounters_keptByCommands s) (fun _ _ => trivial) rn ho ⟨rfl, rfl, rfl⟩).leaves

/-! ### The host calls (R265 to R305) -/

section
variable (h : KeptByHostCalls A P E) (hw : ∀ p ∈ wirePins, A p)
include h hw

section
variable (hE : ∀ e, E e)
include hE

/-- Every attempt that is counted has a round of the loop, so the count stays within the bound. -/
theorem resyncLoop_ends (T : Template) (poll : Fin 4 × Byte) (n : Nat) {s : State} (hs : P s)
    (hn : s.resyncTries + n ≤ s.cfg.params.resyncBound) : (resyncLoop T poll n s).Ends P E := by
  induction n generalizing s with
  | zero => exact ⟨h.handshakeFailed hs, hE _⟩
  | succ n ih =>
    refine (issue_ends h.toKeptByCommands hw T none none hs).bind_and (issue_session ..) fun res s₁ hs₁ k₁ => ?_
    split
    · exact h.handshakeOk hs₁
    refine (pulse_ends h.toKeptByCommands hs₁ (hw _ (by decide))).bind_and (pulse_session ..) fun _ s₂ hs₂ k₂ => ?_
    have k := k₁.trans k₂
    have hn₂ : s₂.resyncTries + (n + 1) ≤ s₂.cfg.params.resyncBound := by rw [k.resyncTries, k.cfg]; exact hn
    have hcount := h.countResync (by omega) hs₂
    split
    · exact ⟨h.handshakeFailed hcount, hE _⟩
    · exact ih hcount (by simp; omega)

theorem enableBody_ends (T : Template) {s : State} (hs : P s) (hn : s.resyncTries = 0) : (enableBody T s).Ends P E := by
  unfold enableBody
  split
  · exact (issue_ends h.toKeptByCommands hw _ _ _ hs).bind fun _ _ h₁ => h.handshakeOk h₁
  · exact resyncLoop_ends h hw hE _ _ _ hs (by omega)

theorem handshake_ends (hpre : ∀ t, P t → (runPinList t.cfg.initPreamble t).Ends P E) {s : State} (hs : P s) :
    (handshake s).Ends P E := by
  refine (hpre s.clearHandshake (h.clearHandshake hs)).bind_and (runPinList_counters ..) fun _ s₁ hs₁ k₁ => ?_
  split
  · exact ⟨hs₁, hE _⟩
  · exact (enableBody_ends h hw hE _ (h.fsm .resyncing hs₁) k₁.resyncTries).bind fun _ _ h₂ => h₂

theorem eraseBody_ends (hpre : ∀ t, P t → (runPinList t.cfg.initPreamble t).Ends P E) {s : State} (hs : P s) :
    (eraseBody s).Ends P E := by
  unfold eraseBody
  split
  · exact ⟨hs, hE _⟩
  · exact (issue_ends h.toKeptByCommands hw _ _ _ (h.extLast none (h.fsm .erasing hs))).bind fun _ _ h₁ =>
      (delay_ends h.toKeptByCommands h₁ _).bind fun _ _ h₂ => handshake_ends h hw hE hpre h₂

end

variable (rn : RegionName) {m : Region} (hread : ∀ a, (regionOp m (sel m .read a)).isSome)
include hread

theorem readLoop_ends (start total left q : Nat) {s : State} (hs : P s) :
    (readLoop rn m start total left q s).Ends P E := by
  induction left generalizing q s with
  | zero => exact hs
  | succ left ih =>
    exact (readByte_ends h.toKeptByCommands hw rn (hread _) hs).bind fun _ _ h₁ =>
      (ih _ (h.toKeptByCommands.progress h₁ _ _)).bind fun _ _ h₂ => h₂

section
variable (hE : ∀ a d v, E (.pollTimeout rn a d v))
include hE

/-- Every read-back that is counted has a round of the loop, so the count stays within the bound. -/
theorem pollLoop_ends (a : Nat) (d : Byte) (n : Nat) {s : State} (hs : P s)
    (hn : s.pollTries + n ≤ s.cfg.params.pollBound) : (pollLoop rn m a d n s).Ends P E := by
  induction n generalizing s with
  | zero => exact ⟨hs, hE ..⟩
  | succ n ih =>
    refine (delay_ends h.toKeptByCommands hs _).bind_and (delay_session ..) fun _ s₁ hs₁ k₁ =>
      (readByte_ends h.toKeptByCommands hw rn (hread a) hs₁).bind_and (readByte_counters rn (hread a) s₁)
        fun v s₂ hs₂ k₂ => ?_
    have hn₂ : s₂.pollTries + (n + 1) ≤ s₂.cfg.params.pollBound := by
      rw [k₂.pollTries, k₁.pollTries, k₂.cfg, k₁.cfg]; exact hn
    have hcount := h.countPoll (by omega) hs₂
    split
    · exact hs₂
    split
    · exact ⟨hcount, hE ..⟩
    · exact ih hcount (by simp; omega)

theorem poll_ends (a : Nat) (d : Byte) {s : State} (hs : P s) : (poll rn m a d s).Ends P E := by
  unfold poll
  split
  · exact delay_ends h.toKeptByCommands hs _
  · exact pollLoop_ends h hw rn hread hE a d _ (h.clearPoll hs) (by simp)

theorem writeByte_ends {a : Nat} (hwrite : (regionOp m (sel m .write a)).isSome) (d : Byte) {s : State} (hs : P s) :
    (writeByte rn m a d s).Ends P E := by
  refine (readByte_ends h.toKeptByCommands hw rn (hread a) hs).bind fun _ _ h₁ => ?_
  split
  · exact h₁
  · exact (withOp_ends rn hwrite fun T => send_ends h.toKeptByCommands hw m T a (some d) h₁).bind fun _ _ h₂ =>
      poll_ends h hw rn hread hE a d h₂

theorem writeLoop_ends (hwrite : ∀ a, (regionOp m (sel m .write a)).isSome) (start total : Nat) (data : List Byte)
    (q : Nat) {s : State} (hs : P s) : (writeLoop rn m start total data q s).Ends P E := by
  induction data generalizing q s with
  | nil => exact hs
  | cons d rest ih =>
    exact (writeByte_ends h hw rn hread hE (hwrite _) d hs).bind fun _ _ h₁ => ih _ (h.toKeptByCommands.progress h₁ _ _)

variable (hpv : ∀ {s} pv, P s → P { s with pageVals := pv }) (hpage : (regionOp m .writepage).isSome)
include hpv hpage

theorem flushPage_ends (base : Nat) {s : State} (hs : P s) : (flushPage rn m base s).Ends P E := by
  refine (withOp_ends rn hpage fun T => send_ends h.toKeptByCommands hw m T base none hs).bind fun _ s₁ h₁ => ?_
  refine Run.Ends.bind ?_ fun _ _ h₂ => hpv _ h₂
  split
  · exact delay_ends h.toKeptByCommands h₁ _
  · exact poll_ends h hw rn hread hE _ _ h₁

theorem pagedLoop_ends (hload : ∀ a, (regionOp m (sel m .loadpage a)).isSome) (start total : Nat) (data : List Byte)
    (q : Nat) {s : State} (hs : P s) : (pagedLoop rn m start total data q s).Ends P E := by
  induction data generalizing q s with
  | nil => exact hs
  | cons d rest ih =>
    refine (withOp_ends rn (hload _) fun T => send_ends h.toKeptByCommands hw m T _ (some d) (h.cursor q hs)).bind
      fun _ s₁ h₁ => ?_
    dsimp only
    split
    · exact (flushPage_ends h hw rn hread hE hpv hpage _ (hpv _ h₁)).bind fun _ _ h₂ =>
        ih _ (h.toKeptByCommands.progress h₂ _ _)
    · exact ih _ (hpv _ h₁)

end
end
end

/-! ### What the checks establish (R261, R331) -/

theorem undefinedRegionOp?_eq_none {rn : RegionName} {m : Region} {os : List OpName} :
    undefinedRegionOp? rn m os = none ↔ ∀ o ∈ os, (regionOp m o).isSome := by
  simp [undefinedRegionOp?, Option.isSome_iff_ne_none]

/-- `sel` chooses an opcode of the class that the checks ask for (R261, R262). -/
theorem sel_mem_opClass (m : Region) (kind : AccessKind) (a : Nat) : sel m kind a ∈ opClass m kind := by
  unfold sel opClass
  split
  · rcases Nat.mod_two_eq_zero_or_one a with ha | ha <;> cases kind <;> simp [ha]
  · cases kind <;> simp

/-- What `write_memory` has defined once its check passes: the read class, and what its way of writing needs. -/
theorem writeNeeds_defined {rn : RegionName} {m : Region} (h : undefinedRegionOp? rn m (writeNeeds m) = none) :
    (∀ a, (regionOp m (sel m .read a)).isSome)
    ∧ (paged m = true → (∀ a, (regionOp m (sel m .loadpage a)).isSome) ∧ (regionOp m .writepage).isSome)
    ∧ (paged m = false → ∀ a, (regionOp m (sel m .write a)).isSome) := by
  have hall := undefinedRegionOp?_eq_none.1 h
  unfold writeNeeds at hall
  cases hp : paged m with
  | true =>
    simp only [hp, if_true, List.mem_append, List.mem_singleton] at hall
    exact ⟨fun a => hall _ (.inr (sel_mem_opClass m _ a)),
      fun _ => ⟨fun a => hall _ (.inl (.inl (sel_mem_opClass m _ a))), hall _ (.inl (.inr rfl))⟩, nofun⟩
  | false =>
    simp only [hp, Bool.false_eq_true, if_false, List.mem_append] at hall
    exact ⟨fun a => hall _ (.inr (sel_mem_opClass m _ a)), nofun, fun _ a => hall _ (.inl (sel_mem_opClass m _ a))⟩

/-- Only the paged write stores to `page_vals`. -/
theorem writeBody_ends {A : Pin → Prop} {P : State → Prop} {E : Err → Prop} (h : KeptByHostCalls A P E)
    (hw : ∀ p ∈ wirePins, A p) {rn : RegionName} {m : Region} (hE : ∀ a d v, E (.pollTimeout rn a d v))
    (hcheck : undefinedRegionOp? rn m (writeNeeds m) = none)
    (hpv : paged m = true → ∀ {s} pv, P s → P { s with pageVals := pv }) (start : Nat) (data : List Byte) {s : State}
    (hs : P s) : (writeBody rn m start data s).Ends P E := by
  obtain ⟨hread, hpaged, hbytes⟩ := writeNeeds_defined hcheck
  have hstart : P { s with fsm := .writing, extLast := none } := h.extLast none (h.fsm .writing hs)
  refine Run.Ends.bind ?_ fun _ _ h₁ => h.fsm .enabled h₁
  split
  · next hp =>
    obtain ⟨hload, hpage⟩ := hpaged hp
    exact pagedLoop_ends h hw rn hread hE (hpv hp) hpage hload start _ data 0 (hpv hp [] hstart)
  · next hp => exact writeLoop_ends h hw rn hread hE (hbytes (Bool.eq_false_iff.2 hp)) start _ data 0 hstart

theorem checkInitialise_eq_none {c : Configuration} (h : checkInitialise c = none) :
    ∀ p ∈ requiredPins c, (pinEntry c.pins p).line ≠ none :=
  unassignedAmong?_eq_none.1 (Option.or_eq_none_iff.1 h).1

/-- The errors a configuration check names (R331). -/
def Err.IsConfig (e : Err) : Prop := (∃ p, e = .unassignedPin p) ∨ ∃ o, e = .undefinedOpcode o

theorem unassignedAmong?_isConfig {c : Configuration} {ps : List Pin} {e : Err} (h : unassignedAmong? c ps = some e) :
    e.IsConfig := by
  obtain ⟨p, -, rfl⟩ := Option.map_eq_some_iff.1 h
  exact .inl ⟨p, rfl⟩

theorem undefinedRegionOp?_isConfig {rn : RegionName} {m : Region} {os : List OpName} {e : Err}
    (h : undefinedRegionOp? rn m os = some e) : e.IsConfig := by
  obtain ⟨o, -, rfl⟩ := Option.map_eq_some_iff.1 h
  exact .inr ⟨_, rfl⟩

theorem undefinedPartOp?_isConfig {T : Option Template} {o : NeededOp} {e : Err} (h : undefinedPartOp? T o = some e) :
    e.IsConfig := by
  cases T with
  | none => exact .inr ⟨o, (Option.some.inj h).symm⟩
  | some T => exact nomatch h

/-! ### What a step runs -/

/-- The body of `initialise` after its checks (R265). -/
def initialiseBody (s : State) : Run CallResult := handshake { s with extLast := none }

/-- The body of `read_memory` after its checks (R269). -/
def readBody (rn : RegionName) (m : Region) (start n : Nat) (s : State) : Run CallResult :=
  (readLoop rn m start n n 0 { s with fsm := .reading, extLast := none }).bind fun bs s =>
  .done (.bytes bs) { s with fsm := .enabled }

/-- The checks and the body that a request which is not refused runs in `s`. -/
inductive Runs (s : State) : Option Err → (State → Run CallResult) → Prop
  | isp (c : Cmd) (r : Cmd → CallResult) (w : State → Option Nat) : Runs s (checkWires s.cfg) (ispExchange c r w)
  | engine (c : EngineCall) : Runs s (checkEngine s.cfg c) (engineBody c)
  | initialise (hf : s.fsm = .disconnected) : Runs s (checkInitialise s.cfg) initialiseBody
  | readMemory (rn : RegionName) (m : Region) (start n : Nat) (hf : s.fsm = .enabled) :
    Runs s (undefinedRegionOp? rn m (readNeeds m)) (readBody rn m start n)
  | writeMemory (rn : RegionName) (m : Region) (start : Nat) (data : List Byte) (hf : s.fsm = .enabled) :
    Runs s (undefinedRegionOp? rn m (writeNeeds m)) (writeBody rn m start data)
  | chipErase (hf : s.fsm = .enabled) : Runs s (checkChipErase s.cfg) eraseBody
  | disable (hf : s.fsm = .enabled ∨ s.fsm = .disconnected) : Runs s (checkDisable s.cfg) disableBody

/-- A check that fails names a configuration error, whatever is run. -/
theorem Runs.isConfig {s : State} {check : Option Err} {body : State → Run CallResult} (h : Runs s check body) {e : Err}
    (he : check = some e) : e.IsConfig := by
  cases h with
  | isp | engine | disable => exact unassignedAmong?_isConfig he
  | readMemory | writeMemory => exact undefinedRegionOp?_isConfig he
  | initialise =>
    rcases Option.or_eq_some_iff.1 he with he | ⟨-, he⟩
    · exact unassignedAmong?_isConfig he
    · exact undefinedPartOp?_isConfig he
  | chipErase =>
    rcases Option.or_eq_some_iff.1 he with he | ⟨-, he⟩ <;> exact undefinedPartOp?_isConfig he

theorem execHostCall_runs {c : HostCall} {s t : State} (h : execHostCall c s = .next t) :
    ∃ check body, Runs s check body ∧ t = checked check s body := by
  cases c with
  | initialise =>
    simp only [execHostCall, hostInitialise] at h
    split at h <;> cases h
    exact ⟨_, _, .initialise ‹_›, rfl⟩
  | readMemory rn start n =>
    simp only [execHostCall, hostReadMemory] at h
    split at h
    · split at h
      · cases h
      · split at h <;> cases h
        exact ⟨_, _, .readMemory rn _ start n ‹_›, rfl⟩
    · cases h
  | writeMemory rn start data =>
    simp only [execHostCall, hostWriteMemory] at h
    split at h
    · split at h
      · cases h
      · split at h <;> cases h
        exact ⟨_, _, .writeMemory rn _ start data ‹_›, rfl⟩
    · cases h
  | chipErase =>
    simp only [execHostCall, hostChipErase] at h
    split at h <;> cases h
    exact ⟨_, _, .chipErase ‹_›, rfl⟩
  | disable =>
    simp only [execHostCall, hostDisable] at h
    split at h <;> cases h
    exact ⟨_, _, .disable ‹_›, rfl⟩

theorem runRequest_runs {r : Request} {s t : State} (h : runRequest r s = .next t) :
    ∃ check body, Runs s check body ∧ t = checked check s body := by
  cases r with
  | host c => exact execHostCall_runs h
  | engine c => cases h; exact ⟨_, _, .engine c, rfl⟩
  | isp bytes =>
    simp only [runRequest, runIsp] at h
    split at h
    · obtain ⟨r, w, hi⟩ := exec_eq_ispExchange ‹Instr›
      rw [hi] at h
      cases h
      exact ⟨_, _, .isp _ r w, rfl⟩
    · cases h

/-- What a step can do: nothing where no request waits, else the checks and the body of the next one. -/
theorem step_cases {s t : State} (h : step s = .next t) :
    t = s ∨ ∃ rest check body, s.cfg.wf = true ∧ Runs (s.withPending rest) check body
      ∧ t = checked check (s.withPending rest) body := by
  unfold step at h
  split at h
  · cases h; exact .inl rfl
  · split at h
    · obtain ⟨check, body, hruns, ht⟩ := runRequest_runs h
      exact .inr ⟨_, check, body, ‹_›, hruns, ht⟩
    · cases h

end Sys2Proof.Machine
end

section
/-! PROOFS. The two safety statements of a session: no step operates an unassigned pin (R135), and every step keeps the
invariants of a host-call boundary (R312). -/

namespace Sys2Proof.Machine

/-! ### Assigned pins only (R135) -/

/-- A pin with a line in the configuration. -/
def Assigned (c : Configuration) (p : Pin) : Prop := (pinEntry c.pins p).line ≠ none

/-- From `s` to `t` the configuration stays, and the events the trace grew by operate assigned pins only. -/
structure OperatesAssigned (s t : State) : Prop where
  cfg : t.cfg = s.cfg
  trace : ∃ new, t.trace = s.trace ++ new ∧ ∀ ev ∈ new, ∀ p, eventPin? ev = some p → Assigned s.cfg p

theorem OperatesAssigned.emit {s t : State} (h : OperatesAssigned s t) (ev : Event)
    (hev : ∀ p, eventPin? ev = some p → Assigned s.cfg p) : OperatesAssigned s (t.emit ev) := by
  obtain ⟨new, hnew, hall⟩ := h.trace
  refine ⟨h.cfg, new ++ [ev], by simp [hnew], fun ev' hmem => ?_⟩
  rcases List.mem_append.1 hmem with hmem | hmem
  · exact hall ev' hmem
  · exact List.mem_singleton.1 hmem ▸ hev

/-- No part of a call writes the configuration, and what a part traces is a transport call's. -/
theorem operatesAssigned_keptByHostCalls (s : State) :
    KeptByHostCalls (Assigned s.cfg) (OperatesAssigned s) fun _ => True where
  draws h := { h with }
  samples h := { h with }
  drivesSdo _ h := { h with }
  traces ev hev h := h.emit ev hev
  extLast _ h := { h with }
  transport _ := trivial
  fsm _ h := { h with }
  cursor _ h := { h with }
  clearPoll h := { h with }
  countPoll _ h := { h with }
  clearHandshake h := { h with }
  countResync _ h := { h with }
  handshakeOk h := { h with }
  handshakeFailed h := { h with }

theorem OperatesAssigned.refl (s : State) : OperatesAssigned s s := ⟨rfl, [], by simp, nofun⟩

/-- A preamble or a postamble whose pins are assigned. -/
theorem runPinList_operatesAssigned {s t : State} {ops : List PinOp}
    (hops : ∀ p ∈ ops.filterMap pinOpPin?, Assigned s.cfg p) (ht : OperatesAssigned s t) :
    (runPinList ops t).Ends (OperatesAssigned s) fun _ => True :=
  runPinList_ends (operatesAssigned_keptByHostCalls s).toKeptByCommands
    (fun _ _ h => ⟨by simpa using h.cfg, by simpa using h.trace⟩) ops hops ht

/-- Where every required pin is assigned, the pins of the exchange are. -/
theorem wires_of_required {c : Configuration} (h : ∀ p ∈ requiredPins c, Assigned c p) : ∀ p ∈ wirePins, Assigned c p :=
  fun p hp => h p (by simp [requiredPins, hp])

/-- Where every required pin is assigned, the preamble of a handshake operates assigned pins. -/
theorem preamble_operatesAssigned {s t : State} (h : ∀ p ∈ requiredPins s.cfg, Assigned s.cfg p)
    (ht : OperatesAssigned s t) :
    (runPinList t.cfg.initPreamble t).Ends (OperatesAssigned s) fun _ => True := by
  rw [ht.cfg]
  exact runPinList_operatesAssigned (fun p hp => h p (by simp only [requiredPins, List.mem_append, hp, true_or, or_true])) ht

/-- What runs in a state of a session, once its checks pass, operates assigned pins only: the checks of the request name
the pins, or `initialise` has checked them. -/
theorem Runs.operatesAssigned {s : State} (hinv : SessionInv s) {check : Option Err} {body : State → Run CallResult}
    (h : Runs s check body) (hcheck : check = none) : (body s).Ends (OperatesAssigned s) fun _ => True := by
  have hkept := operatesAssigned_keptByHostCalls s
  have hs := OperatesAssigned.refl s
  have hE : ∀ e : Err, (fun _ => True) e := fun _ => trivial
  cases h with
  | isp c r w => exact ispExchange_ends hkept.toKeptByCommands (unassignedAmong?_eq_none.1 hcheck) c r w hs
  | engine c =>
    exact engineBody_ends hkept.toKeptByCommands (fun _ => trivial) c (unassignedAmong?_eq_none.1 hcheck) hs
  | initialise hf =>
    have hreq := checkInitialise_eq_none hcheck
    exact handshake_ends hkept (wires_of_required hreq) hE (fun _ => preamble_operatesAssigned hreq)
      (hkept.extLast none hs)
  | readMemory rn m start n hf =>
    exact (readLoop_ends hkept (wires_of_required (hinv.pinsAssigned hf)) rn (regionOp_read_isSome hcheck) start n n 0
      (hkept.extLast none (hkept.fsm .reading hs))).bind fun _ _ h₁ => hkept.fsm .enabled h₁
  | writeMemory rn m start data hf =>
    exact writeBody_ends hkept (wires_of_required (hinv.pinsAssigned hf)) (fun _ _ _ => trivial) hcheck
      (fun _ _ _ h => { h with }) start data hs
  | chipErase hf =>
    have hreq := hinv.pinsAssigned hf
    exact eraseBody_ends hkept (wires_of_required hreq) hE (fun _ => preamble_operatesAssigned hreq) hs
  | disable hf =>
    exact (runPinList_operatesAssigned (checkDisable_eq_none.1 hcheck) (hkept.extLast none hs)).bind
      fun _ _ h₁ => hkept.fsm .disabled h₁

/-- How a call ends adds nothing to the trace of its body. -/
theorem OperatesAssigned.complete {s : State} {f : Fsm} {r : Run CallResult} (h : r.Leaves (OperatesAssigned s)) :
    OperatesAssigned s (Machine.complete f r) := by
  cases r with
  | done a t => exact { h with }
  | raised e t => exact { h with }

theorem SessionInv.withPending {s : State} (h : SessionInv s) (rest : List Request) : SessionInv (s.withPending rest) :=
  { h with }

/-- What a step runs passed its checks, or it traces nothing. -/
theorem step_operatesAssigned {s t : State} (hinv : SessionInv s) (h : step s = .next t) : OperatesAssigned s t := by
  rcases step_cases h with rfl | ⟨rest, check, body, -, hruns, rfl⟩
  · exact .refl t
  · suffices hcall : OperatesAssigned (s.withPending rest) (checked check (s.withPending rest) body) from
      ⟨hcall.cfg, hcall.trace⟩
    cases check with
    | some e => exact ⟨rfl, (OperatesAssigned.refl _).trace⟩
    | none => exact .complete (hruns.operatesAssigned (hinv.withPending rest) rfl).leaves

/-- Settles O58: the new events are those of the step's request. -/
theorem stepOperatesAssignedPinsOnly : Obligations.StepOperatesAssignedPinsOnly := by
  intro s t hinv hstep ev hev
  obtain ⟨new, hnew, hall⟩ := (step_operatesAssigned hinv hstep).trace
  rw [newEvents, hnew, List.drop_left] at hev
  exact hall ev hev

/-! ### The registers of a session, at any moment of a call (R312) -/

/-- What every part of a call keeps of R312 (b) to (d), with `M` true of `page_vals` and `F` of `fsm`. -/
structure SessionRegs (c : Configuration) (M : Memory → Prop) (F : Fsm → Prop) (t : State) : Prop where
  cfg : t.cfg = c
  sckIdle : t.lvlSck = false
  resyncBounded : t.resyncTries ≤ c.params.resyncBound
  pollBounded : t.pollTries ≤ c.params.pollBound
  pages : M t.pageVals
  fsm : F t.fsm

section
variable {c : Configuration} {M : Memory → Prop} {F : Fsm → Prop} {E : Err → Prop}

theorem sessionRegs_keptByCommands (hE : ∀ e, E (.transport e)) :
    KeptByCommands (fun _ => True) (SessionRegs c M F) E where
  draws h := { h with }
  samples h := { h with }
  drivesSdo _ h := { h with }
  traces _ _ h := { h with }
  extLast _ h := { h with }
  transport := hE

theorem sessionRegs_keptByHostCalls (hE : ∀ e, E (.transport e)) :
    KeptByHostCalls (fun _ => True) (SessionRegs c M fun _ => True) E where
  toKeptByCommands := sessionRegs_keptByCommands hE
  fsm _ h := { h with fsm := trivial }
  cursor _ h := { h with fsm := trivial }
  clearPoll h := { h with pollBounded := Nat.zero_le _ }
  countPoll hlt h := { h with pollBounded := h.cfg ▸ hlt }
  clearHandshake h := { h with resyncBounded := Nat.zero_le _ }
  countResync hlt h := { h with resyncBounded := h.cfg ▸ hlt }
  handshakeOk h := { h with fsm := trivial }
  handshakeFailed h := { h with fsm := trivial }

variable (hE : ∀ e, E (.transport e)) {t : State}
include hE

/-- A list of pin operations that leaves `Sck` inactive keeps the registers whichever way it ends (R312 (b), R372). -/
theorem runPinList_sessionRegs {ops : List PinOp} (hsck : sckAfter false ops = false) (ht : SessionRegs c M F t) :
    (runPinList ops t).Ends (SessionRegs c M F) E := by
  have hsame : sckAfter t.lvlSck ops = t.lvlSck := by rw [ht.sckIdle, hsck]
  have hset {u : State} (p : Pin) (v : Bool) (h : SessionRegs c M F { u with lvlSck := false }) :
      SessionRegs c M F { u.setLvl p v with lvlSck := false } := by
    cases p with
    | _ => exact { h with }
  have hregs := runPinList_ends ((sessionRegs_keptByCommands hE).apartFromSck false) hset ops (fun _ _ => trivial)
    (s := t) { ht with sckIdle := rfl }
  exact (hregs.and_leaves (runPinList_sck hsame)).mono fun u ⟨h, hu⟩ =>
    { h with sckIdle := hu.trans ht.sckIdle }

end

theorem preamble_leaves_sckIdle {c : Configuration} (h : c.wf = true) : sckAfter false c.initPreamble = false := by
  simp only [Configuration.wf, Bool.and_eq_true, Bool.not_eq_true'] at h
  obtain ⟨⟨-, hpreamble⟩, -⟩ := h
  exact hpreamble

theorem postamble_leaves_sckIdle {c : Configuration} (h : c.wf = true) : sckAfter false c.disablePostamble = false := by
  simp only [Configuration.wf, Bool.and_eq_true, Bool.not_eq_true'] at h
  obtain ⟨-, hpostamble⟩ := h
  exact hpostamble

/-! ### Where the calls that are done end (R260, R291) -/

theorem resyncLoop_fsm {T : Template} {poll : Fin 4 × Byte} {n : Nat} {s t : State}
    (h : resyncLoop T poll n s = .done () t) : t.fsm = .enabled := by
  induction n generalizing s with
  | zero => cases h
  | succ n ih =>
    obtain ⟨res, s₁, -, h₁⟩ := Run.bind_eq_done.1 h
    split at h₁
    · cases h₁; rfl
    obtain ⟨_, s₂, -, h₂⟩ := Run.bind_eq_done.1 h₁
    split at h₂
    · cases h₂
    · exact ih h₂

theorem enableBody_fsm {T : Template} {s t : State} (h : enableBody T s = .done () t) : t.fsm = .enabled := by
  unfold enableBody at h
  split at h
  · obtain ⟨_, s₁, -, h₁⟩ := Run.bind_eq_done.1 h
    cases h₁; rfl
  · exact resyncLoop_fsm h

theorem handshake_fsm {s t : State} {r : CallResult} (h : handshake s = .done r t) : t.fsm = .enabled := by
  obtain ⟨_, s₁, -, h₁⟩ := Run.bind_eq_done.1 h
  split at h₁
  · cases h₁
  · obtain ⟨_, s₂, h₂, h₃⟩ := Run.bind_eq_done.1 h₁
    cases h₃
    exact enableBody_fsm h₂

theorem eraseBody_fsm {s t : State} {r : CallResult} (h : eraseBody s = .done r t) : t.fsm = .enabled := by
  unfold eraseBody at h
  split at h
  · cases h
  · obtain ⟨_, s₁, -, h₁⟩ := Run.bind_eq_done.1 h
    obtain ⟨_, s₂, -, h₂⟩ := Run.bind_eq_done.1 h₁
    exact handshake_fsm h₂

theorem readBody_fsm {rn : RegionName} {m : Region} {start n : Nat} {s t : State} {r : CallResult}
    (h : readBody rn m start n s = .done r t) : t.fsm = .enabled := by
  obtain ⟨_, s₁, -, h₁⟩ := Run.bind_eq_done.1 h
  cases h₁; rfl

theorem writeBody_fsm {rn : RegionName} {m : Region} {start : Nat} {data : List Byte} {s t : State} {r : CallResult}
    (h : writeBody rn m start data s = .done r t) : t.fsm = .enabled := by
  obtain ⟨_, s₁, -, h₁⟩ := Run.bind_eq_done.1 h
  cases h₁; rfl

theorem disableBody_fsm {s t : State} {r : CallResult} (h : disableBody s = .done r t) : t.fsm = .disabled := by
  obtain ⟨_, s₁, -, h₁⟩ := Run.bind_eq_done.1 h
  cases h₁; rfl

theorem flushPage_pageVals {rn : RegionName} {m : Region} {base : Nat} {s t : State}
    (h : flushPage rn m base s = .done () t) : t.pageVals = [] := by
  obtain ⟨_, s₁, -, h₁⟩ := Run.bind_eq_done.1 h
  obtain ⟨_, s₂, -, h₂⟩ := Run.bind_eq_done.1 h₁
  cases h₂; rfl

/-- The last byte of a paged write is flushed, so no page is left behind (R290). -/
theorem pagedLoop_pageVals {rn : RegionName} {m : Region} {start total q : Nat} {data : List Byte} {s t : State}
    (h : pagedLoop rn m start total data q s = .done () t) (hs : data ≠ [] ∨ s.pageVals = []) : t.pageVals = [] := by
  induction data generalizing q s with
  | nil => cases h; exact hs.resolve_left fun hne => hne rfl
  | cons d rest ih =>
    obtain ⟨_, s₁, -, h₁⟩ := Run.bind_eq_done.1 h
    dsimp only at h₁
    split at h₁
    · obtain ⟨_, s₂, hflush, hrest⟩ := Run.bind_eq_done.1 h₁
      have hempty : s₂.pageVals = [] := flushPage_pageVals hflush
      exact ih hrest (.inr hempty)
    · next hmore => exact ih h₁ (.inl fun hrest => hmore (.inr hrest))

theorem writeBody_pageVals {rn : RegionName} {m : Region} {start : Nat} {data : List Byte} {s t : State} {r : CallResult}
    (hp : paged m = true) (h : writeBody rn m start data s = .done r t) : t.pageVals = [] := by
  rw [writeBody, if_pos hp] at h
  obtain ⟨_, s₁, hloop, h₁⟩ := Run.bind_eq_done.1 h
  have hempty : s₁.pageVals = [] := pagedLoop_pageVals hloop (.inr rfl)
  cases h₁
  exact hempty

/-! ### From the registers to the invariants of a boundary -/

/-- R312 (a), and that a session past `initialise` has its required pins assigned. -/
def BoundaryFsm (c : Configuration) (f : Fsm) : Prop :=
  (f = .disconnected ∨ f = .enabled ∨ f = .disabled) ∧ (f = .enabled → ∀ p ∈ requiredPins c, Assigned c p)

theorem boundaryFsm_enabled {c : Configuration} (h : ∀ p ∈ requiredPins c, Assigned c p) : BoundaryFsm c .enabled :=
  ⟨.inr (.inl rfl), fun _ => h⟩

theorem SessionInv.boundaryFsm {s : State} (h : SessionInv s) : BoundaryFsm s.cfg s.fsm := ⟨h.boundary, h.pinsAssigned⟩

theorem SessionInv.regs {s : State} (h : SessionInv s) {F : Fsm → Prop} (hF : F s.fsm) :
    SessionRegs s.cfg (· = []) F s := ⟨rfl, h.sckIdle, h.resyncBounded, h.pollBounded, h.noPageVals, hF⟩

/-- After an error a call is where it began, or Enabled (R330). -/
theorem fsmAfterError_cases (f : Fsm) (e : Err) : fsmAfterError f e = f ∨ fsmAfterError f e = .enabled := by
  cases e with
  | resyncExhausted | pollTimeout => exact .inr rfl
  | _ => exact .inl rfl

theorem BoundaryFsm.afterError {c : Configuration} {f : Fsm} (h : BoundaryFsm c f)
    (hreq : ∀ p ∈ requiredPins c, Assigned c p) (e : Err) : BoundaryFsm c (fsmAfterError f e) := by
  rcases fsmAfterError_cases f e with he | he <;> rw [he]
  · exact h
  · exact boundaryFsm_enabled hreq

theorem pageValsAfterError_nil (e : Err) : pageValsAfterError [] e = [] := by
  cases e with
  | _ => rfl

/-- The errors after which `fsm` is where the call began (R330). -/
def Err.KeepsFsm (e : Err) : Prop := ∀ f, fsmAfterError f e = f

/-- The errors that empty `page_vals` (R333, R335). -/
def Err.EmptiesPages (e : Err) : Prop := ∀ m, pageValsAfterError m e = []

section
variable {c : Configuration} {M : Memory → Prop} {F : Fsm → Prop} {E : Err → Prop} {f : Fsm} {r : Run CallResult}

/-- A call whose body kept the registers ends at a boundary, if the body that is done left `page_vals` empty and `fsm` at
one, and an error does. -/
theorem complete_sessionInv (hr : r.Ends (SessionRegs c M F) E)
    (hdone : ∀ a t, r = .done a t → M t.pageVals → F t.fsm → t.pageVals = [] ∧ BoundaryFsm c t.fsm)
    (hpages : ∀ e m, E e → M m → pageValsAfterError m e = []) (hfsm : ∀ e, E e → BoundaryFsm c (fsmAfterError f e)) :
    SessionInv (complete f r) := by
  cases r with
  | done a t =>
    obtain ⟨rfl, hsck, hresync, hpoll, hM, hF⟩ : SessionRegs c M F t := hr
    obtain ⟨hpv, hboundary, hpins⟩ := hdone a t rfl hM hF
    exact ⟨hboundary, hsck, hpv, hresync, hpoll, hpins⟩
  | raised e t =>
    obtain ⟨⟨rfl, hsck, hresync, hpoll, hM, -⟩, he⟩ := hr
    obtain ⟨hboundary, hpins⟩ := hfsm e he
    exact ⟨hboundary, hsck, hpages e _ he hM, hresync, hpoll, hpins⟩

/-- A call that stores to no `page_vals`. -/
theorem complete_sessionInv_of_noPages (hr : r.Ends (SessionRegs c (· = []) F) E)
    (hdone : ∀ a t, r = .done a t → F t.fsm → BoundaryFsm c t.fsm) (hfsm : ∀ e, E e → BoundaryFsm c (fsmAfterError f e)) :
    SessionInv (complete f r) :=
  complete_sessionInv hr (fun a t h hM hF => ⟨hM, hdone a t h hF⟩)
    (fun e _ _ hm => hm ▸ pageValsAfterError_nil e) hfsm

/-- An ISP word or an engine call: it writes no `fsm`, and no error of it does. -/
theorem complete_sessionInv_of_keepsFsm (hf : BoundaryFsm c f)
    (hr : r.Ends (SessionRegs c (· = []) (· = f)) Err.KeepsFsm) : SessionInv (complete f r) :=
  complete_sessionInv_of_noPages hr (fun _ _ _ ht => ht ▸ hf) fun _ he => (he f).symm ▸ hf

/-- A host call that needs the required pins assigned and is done in Enabled: any error leaves it at a boundary. -/
theorem complete_sessionInv_of_enabled (hf : BoundaryFsm c f) (hreq : ∀ p ∈ requiredPins c, Assigned c p)
    (hr : r.Ends (SessionRegs c (· = []) F) fun _ => True) (hdone : ∀ a t, r = .done a t → t.fsm = .enabled) :
    SessionInv (complete f r) :=
  complete_sessionInv_of_noPages hr (fun a t h _ => (hdone a t h).symm ▸ boundaryFsm_enabled hreq)
    fun e _ => hf.afterError hreq e

/-- A paged write: the last flush empties `page_vals`, and so does every error it can end in. -/
theorem complete_sessionInv_of_pages (hreq : ∀ p ∈ requiredPins c, Assigned c p)
    (hr : r.Ends (SessionRegs c M F) Err.EmptiesPages)
    (hdone : ∀ a t, r = .done a t → t.pageVals = [] ∧ t.fsm = .enabled) : SessionInv (complete .enabled r) := by
  have henabled := boundaryFsm_enabled hreq
  refine complete_sessionInv hr (fun a t h _ _ => ?_) (fun _ m he _ => he m) fun e _ => henabled.afterError hreq e
  obtain ⟨hpv, hfsm⟩ := hdone a t h
  exact ⟨hpv, hfsm.symm ▸ henabled⟩

end

/-- The body of `write_memory`: of a region that is not paged it stores to no `page_vals`. -/
theorem writeBody_sessionInv {s : State} (hinv : SessionInv s) (hf : s.fsm = .enabled) {rn : RegionName} {m : Region}
    (hcheck : undefinedRegionOp? rn m (writeNeeds m) = none) (start : Nat) (data : List Byte) :
    SessionInv (complete s.fsm (writeBody rn m start data s)) := by
  have hw : ∀ p ∈ wirePins, (fun _ : Pin => True) p := fun _ _ => trivial
  have hreq := hinv.pinsAssigned hf
  by_cases hp : paged m = true
  · have hregs : SessionRegs s.cfg (fun _ => True) (fun _ => True) s :=
      ⟨rfl, hinv.sckIdle, hinv.resyncBounded, hinv.pollBounded, trivial, trivial⟩
    have hends := writeBody_ends (E := Err.EmptiesPages) (sessionRegs_keptByHostCalls fun _ _ => rfl) hw
      (fun _ _ _ _ => rfl) hcheck (fun _ _ _ h => { h with pages := trivial }) start data hregs
    rw [hf]
    exact complete_sessionInv_of_pages hreq hends fun _ _ h => ⟨writeBody_pageVals hp h, writeBody_fsm h⟩
  · have hends := writeBody_ends (E := fun _ => True) (sessionRegs_keptByHostCalls fun _ => trivial) hw
      (fun _ _ _ => trivial) hcheck (fun h => absurd h hp) start data (hinv.regs trivial)
    exact complete_sessionInv_of_enabled hinv.boundaryFsm hreq hends fun _ _ => writeBody_fsm

/-- What runs in a state of a session, once its checks pass, ends at a boundary of the session. -/
theorem Runs.complete_sessionInv {s : State} (hwf : s.cfg.wf = true) (hinv : SessionInv s) {check : Option Err}
    {body : State → Run CallResult} (h : Runs s check body) (hcheck : check = none) :
    SessionInv (complete s.fsm (body s)) := by
  have hw : ∀ p ∈ wirePins, (fun _ : Pin => True) p := fun _ _ => trivial
  have hkept : KeptByHostCalls (fun _ => True) (SessionRegs s.cfg (· = []) fun _ => True) fun _ => True :=
    sessionRegs_keptByHostCalls fun _ => trivial
  have hkeptFsm : KeptByCommands (fun _ => True) (SessionRegs s.cfg (· = []) (· = s.fsm)) Err.KeepsFsm :=
    sessionRegs_keptByCommands fun _ _ => rfl
  have hregs := hinv.regs (F := fun _ => True) trivial
  have hpreamble (t : State) (ht : SessionRegs s.cfg (· = []) (fun _ => True) t) :
      (runPinList t.cfg.initPreamble t).Ends (SessionRegs s.cfg (· = []) fun _ => True) fun _ => True := by
    rw [ht.cfg]
    exact runPinList_sessionRegs (fun _ => trivial) (preamble_leaves_sckIdle hwf) ht
  cases h with
  | isp c r w =>
    exact complete_sessionInv_of_keepsFsm hinv.boundaryFsm (ispExchange_ends hkeptFsm hw c r w (hinv.regs rfl))
  | engine c =>
    exact complete_sessionInv_of_keepsFsm hinv.boundaryFsm
      (engineBody_ends hkeptFsm (fun _ _ => rfl) c (fun _ _ => trivial) (hinv.regs rfl))
  | initialise hf =>
    exact complete_sessionInv_of_enabled hinv.boundaryFsm (checkInitialise_eq_none hcheck)
      (handshake_ends hkept hw (fun _ => trivial) hpreamble (hkept.extLast none hregs)) fun _ _ => handshake_fsm
  | readMemory rn m start n hf =>
    have hloop := readLoop_ends hkept hw rn (regionOp_read_isSome hcheck) start n n 0
      (hkept.extLast none (hkept.fsm .reading hregs))
    exact complete_sessionInv_of_enabled hinv.boundaryFsm (hinv.pinsAssigned hf)
      (hloop.bind fun _ _ h₁ => hkept.fsm .enabled h₁) fun _ _ => readBody_fsm
  | writeMemory rn m start data hf => exact writeBody_sessionInv hinv hf hcheck start data
  | chipErase hf =>
    exact complete_sessionInv_of_enabled hinv.boundaryFsm (hinv.pinsAssigned hf)
      (eraseBody_ends hkept hw (fun _ => trivial) hpreamble hregs) fun _ _ => eraseBody_fsm
  | disable hf =>
    have hlist := runPinList_sessionRegs (E := Err.KeepsFsm) (fun _ _ => rfl) (postamble_leaves_sckIdle hwf)
      (hkept.extLast none hregs)
    refine complete_sessionInv_of_noPages (F := fun _ => True)
      (hlist.bind fun _ _ h₁ => { h₁ with fsm := trivial }) (fun _ t h _ => ?_)
      fun _ he => (he s.fsm).symm ▸ hinv.boundaryFsm
    rw [disableBody_fsm h]
    exact ⟨.inr (.inr rfl), nofun⟩

/-- Settles O56: a step runs nothing, or a failed check returns its error and changes nothing else, or what it runs ends at
a boundary. -/
theorem stepKeepsSessionInvariants : Obligations.StepKeepsSessionInvariants := by
  intro s t hinv hstep
  rcases step_cases hstep with rfl | ⟨rest, check, body, hwf, hruns, rfl⟩
  · exact hinv
  · have hinv' := hinv.withPending rest
    cases check with
    | some e =>
      rw [checked_config rfl (hruns.isConfig rfl)]
      exact { hinv' with }
    | none => exact hruns.complete_sessionInv (s := s.withPending rest) hwf hinv' rfl

end Sys2Proof.Machine
end

section
/-! PROOFS. The TPI receiver where no transport call fails (42_tpi_engine.md R173, R174), and `cmd_tpi`: one byte each way,
and the first FrameError of its receives (R177). -/

namespace Sys2Proof.Machine

/-! ### Received bits (R173) -/

/-- The coming bit times receive these bits: their calls do not fail and their samples are these levels. -/
def State.Receives (s : State) (bits : List Bool) : Prop := s.NoFault (2 * bits.length) ∧ s.Samples bits

/-- The state after the bit times that receive these bits: a sample and a pulse each (R173). -/
def State.received (s : State) (bits : List Bool) : State :=
  s.exchanged (2 * bits.length) bits.length s.lvlSdo (tpiRxEvents bits)

theorem State.received_nil (s : State) : s.received [] = s := s.exchanged_zero

@[simp] theorem State.received_received (s : State) (xs ys : List Bool) :
    (s.received xs).received ys = s.received (xs ++ ys) := by
  simp [State.received, State.exchanged_exchanged, tpiRxEvents, Nat.mul_add]

/-- Where bits are received, so are the first of them, and the others after these. -/
theorem State.Receives.append {s : State} {xs ys : List Bool} (h : s.Receives (xs ++ ys)) :
    s.Receives xs ∧ (s.received xs).Receives ys := by
  obtain ⟨hok, hbits⟩ := h
  have hlen : (xs ++ ys).length = xs.length + ys.length := List.length_append
  rw [hlen] at hok
  refine ⟨⟨hok.mono (by omega), fun j hj => ?_⟩, State.noFault_exchanged (hok.mono (by omega)) _ _ _, fun j hj => ?_⟩
  · rw [hbits j (hlen ▸ by omega), List.getD_append _ _ _ _ hj]
  · rw [State.received, State.sample_exchanged, hbits _ (hlen ▸ by omega), List.getD_append_right _ _ _ _ (by omega),
      Nat.add_sub_cancel_left]

/-- One received bit: sample, pulse (R173). -/
theorem tpiRxBit_done {s : State} {v : Bool} (h : s.Receives [v]) : tpiRxBit s = .done v (s.received [v]) := by
  obtain ⟨hok, hbits⟩ := h
  have hget : s.faultAt 0 = none := hok 0 two_pos
  have hpulse : s.faultAt 1 = none := hok 1 one_lt_two
  have hv : s.sample 0 = v := hbits 0 one_pos
  rw [tpiRxBit, getPin_sdi_exchanged hget, Run.bind_done, pulse_exchanged _ (by simpa using hpulse), Run.bind_done,
    State.exchanged_exchanged, hv]
  rfl

/-- A 0 after `j` samples of 1 is the start bit, where the window is longer than `j` (R174). -/
theorem awaitStart_done {s : State} {j window : Nat} (hj : j < window)
    (h : s.Receives (List.replicate j true ++ [false])) :
    awaitStart window s = .done true (s.received (List.replicate j true ++ [false])) := by
  obtain ⟨w, rfl⟩ := Nat.exists_eq_add_of_lt hj
  clear hj
  induction j generalizing s with
  | zero =>
    rw [awaitStart, tpiRxBit_done h]
    rfl
  | succ j ih =>
    obtain ⟨hfirst, hrest⟩ := State.Receives.append (xs := [true]) h
    have hw : j + 1 + w + 1 = (j + w + 1) + 1 := by omega
    rw [hw, awaitStart, tpiRxBit_done hfirst, Run.bind_done, if_pos rfl, ih hrest, State.received_received]
    rfl

/-! ### The data bits (R64, R174) -/

/-- The byte `r` with the bits of `d` at the listed indexes set in it. -/
def withBits (d r : Byte) (ns : List Nat) : Byte :=
  ns.foldl (fun r n => r ||| ((BitVec.ofBool (d.getLsbD n)).setWidth 8 <<< n)) r

theorem getLsbD_withBits (d r : Byte) (ns : List Nat) {i : Nat} (hi : i < 8) :
    (withBits d r ns).getLsbD i = (r.getLsbD i || (decide (i ∈ ns) && d.getLsbD i)) := by
  induction ns generalizing r with
  | nil => simp [withBits]
  | cons n rest ih =>
    rw [withBits, List.foldl_cons, ← withBits, ih]
    rcases lt_trichotomy i n with h | rfl | h
    · simp [hi, h, h.ne]
    · cases hd : d[i] <;> simp [hi, hd]
    · have : i - n ≠ 0 := by omega
      simp [hi, h.not_gt, h.ne', this]

/-- The eight data bits make the byte. -/
theorem withBits_all (d : Byte) : withBits d 0#8 [0, 1, 2, 3, 4, 5, 6, 7] = d := by
  refine BitVec.eq_of_getLsbD_eq fun i hi => ?_
  have hmem : i ∈ [0, 1, 2, 3, 4, 5, 6, 7] := by simp; omega
  rw [getLsbD_withBits _ _ _ hi, decide_eq_true hmem, Bool.true_and, BitVec.getLsbD_zero, Bool.false_or]

/-- The listed data bits, where they are those of `d`. -/
theorem tpiRxData_done {s : State} {d : Byte} {ns : List Nat} (r : Byte) (h : s.Receives (ns.map d.getLsbD)) :
    tpiRxData ns r s = .done (withBits d r ns) (s.received (ns.map d.getLsbD)) := by
  induction ns generalizing r s with
  | nil => rw [List.map_nil, State.received_nil]; rfl
  | cons n rest ih =>
    obtain ⟨hfirst, hrest⟩ := State.Receives.append (xs := [d.getLsbD n]) h
    rw [tpiRxData, tpiRxBit_done hfirst, Run.bind_done, ih _ hrest, State.received_received]
    rfl

/-! ### `rx_byte` (R174) -/

/-- The samples of a whole frame of `d` whose start bit comes after `j` samples of 1: data, even parity, stop bits (R99). -/
def rxFrame (j : Nat) (d : Byte) : List Bool :=
  List.replicate j true ++ [false] ++ lsbFirst d ++ [decide (popcount d % 2 = 1), true, true]

theorem length_rxFrame (j : Nat) (d : Byte) : (rxFrame j d).length = j + 12 := by simp [rxFrame, lsbFirst]

/-- A whole frame within the window is received as its byte, once `Sdo` is released. -/
theorem rxByte_done {s : State} {j : Nat} {d : Byte} (hj : j < s.cfg.params.startBitWindow)
    (hok : s.NoFault (2 * (j + 12) + 1)) (hbits : s.Samples (rxFrame j d)) :
    rxByte s = .done d (s.exchanged (2 * (j + 12) + 1) (j + 12) true
      ([.set .sdo true] ++ tpiRxEvents (rxFrame j d))) := by
  have hlen := length_rxFrame j d
  have hframe : (s.exchanged 1 0 true [.set .sdo true]).Receives (rxFrame j d) :=
    ⟨State.noFault_exchanged (hok.mono (by omega)) _ _ _, fun i hi => by simpa using hbits i hi⟩
  obtain ⟨hdata, hend⟩ := hframe.append
  obtain ⟨hstart, hdata⟩ := hdata.append
  obtain ⟨hparity, hstop⟩ := State.Receives.append (xs := [decide (popcount d % 2 = 1)]) hend
  obtain ⟨hstop1, hstop2⟩ := State.Receives.append (xs := [true]) hstop
  rw [rxByte, setPin_sdo_exchanged true (hok 0 (by omega)), Run.bind_done, State.exchanged_cfg,
    awaitStart_done hj hstart, Run.bind_done, if_neg (by decide), tpiRxData_done _ hdata, withBits_all, Run.bind_done,
    State.received_received, ← lsbFirst, tpiRxBit_done hparity, Run.bind_done, tpiParity_eq, if_neg (by simp),
    tpiRxBit_done hstop1, Run.bind_done, tpiRxBit_done hstop2, Run.bind_done, if_neg (by decide)]
  have hwhole : List.replicate j true ++ [false] ++ lsbFirst d ++ [decide (popcount d % 2 = 1)] ++ [true] ++ [true]
      = rxFrame j d := by simp [rxFrame]
  simp only [State.received_received, hwhole]
  rw [State.received, hlen, State.exchanged_exchanged, Nat.add_comm 1, Nat.zero_add, State.exchanged_lvlSdo]

/-! ### `cmd_tpi` (R177) -/

/-- The pins `cmd_tpi` operates are among the three wires. -/
theorem checkEngine_cmdTpi_eq_none {s : State} (h : s.WiresAssigned) (tx : List Byte) (n : Nat) :
    checkEngine s.cfg (.cmdTpi tx n) = none := by
  have hsub : enginePins (.cmdTpi tx n) ⊆ wirePins := by
    refine List.append_subset.2 ⟨?_, ?_⟩ <;> split <;> decide
  exact unassignedAmong?_eq_none.2 fun p hp => h p (hsub hp)

/-- An engine call whose body raises a FrameError returns it, and no session state changes (R330 E4). -/
theorem complete_frameError {s v : State} (e : FrameError) (h : SameSession s v) :
    complete s.fsm (.raised (.frame e) v) = returnResult (.error (.frame e)) v := by
  rw [← h.fsm]
  rfl

/-- The first error of the receives ends them: the bytes before it are not returned, and no receive follows. -/
theorem rxBytes_raised {n k : Nat} (hk : k < n) {t u v : State} {bs : List Byte} {e : Err}
    (hdone : rxBytes k t = .done bs u) (herr : rxByte u = .raised e v) : rxBytes n t = .raised e v := by
  obtain ⟨m, rfl⟩ := Nat.exists_eq_add_of_lt hk
  clear hk
  induction k generalizing t bs with
  | zero =>
    cases hdone
    rw [rxBytes, herr, Run.bind_raised]
  | succ k ih =>
    obtain ⟨b, t₁, hfirst, hrest⟩ := Run.bind_eq_done.1 hdone
    obtain ⟨bs₁, u₁, hrest, hlast⟩ := Run.bind_eq_done.1 hrest
    cases hlast
    have hm : k + 1 + m + 1 = (k + m + 1) + 1 := by omega
    rw [hm, rxBytes, hfirst, Run.bind_done, ih hrest, Run.bind_raised]

/-- One byte each way: the frame, the release of `Sdo`, the receive. -/
theorem cmdTpi_one_done {s : State} (b : Byte) {j : Nat} {d : Byte} (hj : j < s.cfg.params.startBitWindow)
    (hok : s.NoFault (24 + (2 * (j + 12) + 1))) (hbits : s.Samples (rxFrame j d)) :
    cmdTpi [b] 1 s = .done [d] (s.exchanged (24 + (2 * (j + 12) + 1)) (j + 12) true
      (tpiTxEvents (tpiFrame b) ++ [.set .sdo true] ++ tpiRxEvents (rxFrame j d))) := by
  have hsent : txByte b s = .done () (s.exchanged 24 0 true (tpiTxEvents (tpiFrame b))) := by
    rw [tpiFrame_eq]
    exact tpiFrameIsSent s b (hok.mono (by omega))
  have hreceived := rxByte_done (s := s.exchanged 24 0 true (tpiTxEvents (tpiFrame b))) hj
    (State.noFault_exchanged hok _ _ _) fun i hi => by simpa using hbits i hi
  rw [cmdTpi, txBytes, hsent, Run.bind_done, txBytes, Run.bind_done, rxBytes, hreceived, Run.bind_done, rxBytes,
    Run.bind_done, State.exchanged_exchanged, Nat.zero_add, List.append_assoc]

/-- Settles O19: the check passes, and then the body is one byte each way, or ends with the first error of its receives. -/
theorem cmdTpiSendsThenReceives : Obligations.CmdTpiSendsThenReceives := by
  refine ⟨fun s b d k hwires hk hwindow hok hbits => ?_, fun s t u v tx bs n k e hwires hk htx hdone herr => ?_⟩
  · obtain ⟨j, rfl⟩ := Nat.exists_eq_add_of_le' hk
    rw [execEngineCall, checked_none (checkEngine_cmdTpi_eq_none hwires [b] 1), engineBody,
      cmdTpi_one_done b hwindow hok hbits, tpiFrame_eq]
    rfl
  · have hrun : cmdTpi tx n s = .raised (.frame e) v := by
      rw [cmdTpi, htx, Run.bind_done, rxBytes_raised hk hdone herr]
    have hsession : SameSession s v := Run.leaves_raised.1 (hrun ▸ cmdTpi_session tx n s)
    rw [execEngineCall, checked_none (checkEngine_cmdTpi_eq_none hwires tx n), engineBody, hrun, Run.bind_raised,
      complete_frameError e hsession]

end Sys2Proof.Machine
end

section
/-! PROOFS. The ISP instructions where no transport call fails (43_isp_codec.md Parts 2 and 3): the word a template builds,
operand by operand, what each class of instructions leaves, and the 30 rows as uses of these two. -/

namespace Sys2Proof

/-! ### The word of a template whose maps are runs of bits (R200, R203) -/

/-- A run of `n` mapped bits sets the positions `pos` to `pos + n - 1`, each where its operand bit is 1. -/
theorem getLsbD_placeBits_mapBits (f : Nat → Bool) (pos k n : Nat) (w : Word) {i : Nat} (hi : i < 32) :
    (placeBits f (mapBits pos k n) w).getLsbD i
      = (w.getLsbD i || (decide (pos ≤ i ∧ i < pos + n) && f (k + (i - pos)))) := by
  rw [getLsbD_placeBits f _ w hi, Bool.eq_iff_iff]
  simp only [mapBits, List.any_map, Bool.or_eq_true, List.any_eq_true, List.mem_range, Function.comp_apply,
    Bool.and_eq_true, beq_iff_eq, decide_eq_true_eq]
  refine or_congr_right ⟨?_, ?_⟩
  · rintro ⟨j, hj, rfl, hf⟩
    exact ⟨by omega, by rwa [Nat.add_sub_cancel_left]⟩
  · rintro ⟨⟨hlow, hhigh⟩, hf⟩
    exact ⟨i - pos, by omega, by omega, hf⟩

/-- The address bits of a row of the tables (43_isp_codec.md Part 3). -/
theorem placeBits_testBit_mapBits (fa pos k n : Nat) (w : Word) :
    placeBits fa.testBit (mapBits pos k n) w = w ||| Machine.addrBits fa k n pos := by
  refine BitVec.eq_of_getLsbD_eq fun i hi => ?_
  have hdrop : i - pos < 32 := by omega
  rw [getLsbD_placeBits_mapBits _ _ _ _ _ hi, BitVec.getLsbD_or, Machine.addrBits, BitVec.getLsbD_shiftLeft,
    BitVec.getLsbD_ofNat, Nat.testBit_mod_two_pow, Nat.testBit_div_two_pow, Nat.add_comm (i - pos) k]
  rcases Nat.lt_or_ge i pos with hlow | hlow
  · simp [hlow, hlow.not_ge]
  · have hrun : i < pos + n ↔ i - pos < n := by omega
    simp [hlow, hlow.not_gt, hi, hdrop, hrun]

/-- The low `n` bits of the data byte, at the end of the word. -/
theorem getLsbD_placeBits_data (d : Byte) (n : Nat) (w : Word) {i : Nat} (hi : i < 32) :
    (placeBits d.getLsbD (mapBits 0 0 n) w).getLsbD i = (w.getLsbD i || (decide (i < n) && d.getLsbD i)) := by
  simp [getLsbD_placeBits_mapBits _ _ _ _ _ hi]

/-- A whole data byte. -/
theorem placeBits_data_eight (d : Byte) (w : Word) :
    placeBits d.getLsbD (mapBits 0 0 8) w = w ||| d.setWidth 32 := by
  refine BitVec.eq_of_getLsbD_eq fun i hi => ?_
  rw [getLsbD_placeBits_data d 8 w hi, BitVec.getLsbD_or, BitVec.getLsbD_setWidth, decide_eq_true hi, Bool.true_and]
  rcases Nat.lt_or_ge i 8 with hlow | hhigh
  · rw [decide_eq_true hlow, Bool.true_and]
  · rw [BitVec.getLsbD_of_ge d i hhigh, Bool.and_false]

/-- The six data bits of the lock write (R247). -/
theorem placeBits_data_six (d : Byte) (w : Word) :
    placeBits d.getLsbD (mapBits 0 0 6) w = w ||| (d.setWidth 32 &&& 0x3F#32) := by
  have hmask : (0x3F#32 : Word) = BitVec.setWidth 32 (BitVec.allOnes 6) := by decide
  refine BitVec.eq_of_getLsbD_eq fun i hi => ?_
  rw [getLsbD_placeBits_data d 6 w hi, BitVec.getLsbD_or, BitVec.getLsbD_and, BitVec.getLsbD_setWidth, hmask,
    BitVec.getLsbD_setWidth, BitVec.getLsbD_allOnes, decide_eq_true hi, Bool.true_and, Bool.true_and, Bool.and_comm]

theorem buildWord_address {T : Template} {pos k n : Nat} (ha : T.addrMap = mapBits pos k n) (fa : Nat) :
    buildWord T (some fa) none = T.constBits ||| Machine.addrBits fa k n pos := by
  simp only [buildWord, ha, placeBits_testBit_mapBits]

theorem buildWord_data {T : Template} (hi : T.inputMap = mapBits 0 0 8) (d : Byte) :
    buildWord T none (some d) = T.constBits ||| d.setWidth 32 := by
  simp only [buildWord, hi, placeBits_data_eight]

theorem buildWord_address_data {T : Template} {pos k n : Nat} (ha : T.addrMap = mapBits pos k n)
    (hi : T.inputMap = mapBits 0 0 8) (fa : Nat) (d : Byte) :
    buildWord T (some fa) (some d) = T.constBits ||| Machine.addrBits fa k n pos ||| d.setWidth 32 := by
  simp only [buildWord, ha, hi, placeBits_testBit_mapBits, placeBits_data_eight]

end Sys2Proof

namespace Sys2Proof.Machine

/-! ### What each class leaves (R104, R210 to R222) -/

section
variable {s : State} (hwires : s.WiresAssigned) (hok : s.NoFault 96)
include hwires hok

/-- The check passes and the exchange of the word is whole. -/
theorem checked_ispExchange_done (W : Word) (r : Cmd → CallResult) (w : State → Option Nat) :
    checked (checkWires s.cfg) s (ispExchange (Cmd.ofWord W) r w)
      = { afterIsp s W r with extLast := w (s.afterCmd (Cmd.ofWord W) (s.response 0)) } := by
  have hcheck : checkWires s.cfg = none := unassignedAmong?_eq_none.2 hwires
  rw [checked_none hcheck, ispExchange, transmitCmd_done _ hok, Run.bind_done]
  rfl

variable {i : Instr} {W : Word}

/-- PGM_ENABLE: the outcome of one attempt (R210). -/
theorem exec_enable_done (hi : exec i s = .next (ispEnable i.template s)) (hword : buildWord i.template none none = W) :
    exec i s = .next (afterIsp s W fun r => .enableAttempt (i.template.poll.map fun p => echoOk p r)) := by
  subst hword
  exact hi.trans (congrArg _ (checked_ispExchange_done hwires hok _ _ State.extLast))

/-- A READ returns response byte 3 where its template names that byte (R201, R212 to R214, R222). -/
theorem exec_read_done (hi : exec i s = .next (ispRead i.template i.addr s))
    (hword : buildWord i.template i.addr none = W) (hout : i.template.outputByte = some 3) :
    exec i s = .next (afterIsp s W fun r => .byte r.b3) := by
  have hbyte (res : Cmd) : extractOutput i.template res = res.b3 := by rw [extractOutput, hout]; rfl
  subst hword
  simp only [← hbyte]
  exact hi.trans (congrArg _ (checked_ispExchange_done hwires hok _ _ State.extLast))

/-- CHIP_ERASE, WRITE, LOADPAGE and WRITEPAGE ignore the response (R211, R215 to R220). -/
theorem exec_unread_done (hi : exec i s = .next (ispUnread i.template i.addr i.input s))
    (hword : buildWord i.template i.addr i.input = W) : exec i s = .next (afterIsp s W fun _ => .ok) := by
  subst hword
  exact hi.trans (congrArg _ (checked_ispExchange_done hwires hok _ _ State.extLast))

/-- LOAD_EXT_ADDR leaves the window of its field address in `ext_last` (R221). -/
theorem exec_loadExtAddr_done {fa : Nat} (hi : exec i s = .next (ispLoadExtAddr i.template fa s))
    (hword : buildWord i.template (some fa) none = W) :
    exec i s = .next { afterIsp s W (fun _ => .ok) with extLast := some (fa / 2 ^ s.cfg.params.addrFieldBits) } := by
  subst hword
  rw [← window_eq_div]
  exact hi.trans (congrArg _ (checked_ispExchange_done hwires hok _ _ fun t => some (window t.cfg.params fa)))

end

/-! ### The 30 rows (R230 to R259) -/

/-- Settles O20: the polled byte of P0's template is response byte 2, and P2's template polls none. -/
theorem pgmEnableCompletes : Obligations.PgmEnableCompletes := fun _ hwires hok =>
  ⟨exec_enable_done hwires hok rfl rfl, exec_enable_done hwires hok rfl rfl⟩

/-- Settles O21: the word is the constant of its template. -/
theorem chipEraseCommandCompletes : Obligations.ChipEraseCommandCompletes := fun _ hwires hok =>
  exec_unread_done hwires hok rfl rfl

/-- Settles O22: two words with address bits, and five that are the constants of their templates. -/
theorem readByteInstructionsComplete : Obligations.ReadByteInstructionsComplete := by
  intro s fa hwires hok
  refine ⟨?eeprom, ?signature, ?lfuse, ?hfuse, ?efuse, ?lock, ?calibration⟩
  case eeprom | signature => exact exec_read_done hwires hok rfl (buildWord_address rfl fa) rfl
  all_goals exact exec_read_done hwires hok rfl rfl rfl

/-- Settles O23: the constant of READ_LO with 14, 16 or 9 address bits. -/
theorem readLowByteInstructionsComplete : Obligations.ReadLowByteInstructionsComplete := by
  intro s fa hwires hok
  refine ⟨?p0, ?p1, ?p2⟩ <;> exact exec_read_done hwires hok rfl (buildWord_address rfl fa) rfl

/-- Settles O24: the constant of READ_HI with 14, 16 or 9 address bits. -/
theorem readHighByteInstructionsComplete : Obligations.ReadHighByteInstructionsComplete := by
  intro s fa hwires hok
  refine ⟨?p0, ?p1, ?p2⟩ <;> exact exec_read_done hwires hok rfl (buildWord_address rfl fa) rfl

/-- Settles O25: a whole data byte, but of the lock write its six low bits. -/
theorem writeByteInstructionsComplete : Obligations.WriteByteInstructionsComplete := by
  intro s fa d hwires hok
  refine ⟨?eeprom, ?lfuse, ?hfuse, ?efuse, ?lock⟩
  case eeprom => exact exec_unread_done hwires hok rfl (buildWord_address_data rfl rfl fa d)
  case lock => exact exec_unread_done hwires hok rfl (placeBits_data_six d _)
  all_goals exact exec_unread_done hwires hok rfl (buildWord_data rfl d)

/-- Settles O26: nine address bits and the data byte. -/
theorem writeWordHalvesComplete : Obligations.WriteWordHalvesComplete := by
  intro s fa d hwires hok
  refine ⟨?lo, ?hi⟩ <;> exact exec_unread_done hwires hok rfl (buildWord_address_data rfl rfl fa d)

/-- Settles O27: six address bits of P0 or seven of P1, and the data byte. -/
theorem loadPageInstructionsComplete : Obligations.LoadPageInstructionsComplete := by
  intro s fa d hwires hok
  refine ⟨?p0lo, ?p0hi, ?p1lo, ?p1hi⟩ <;> exact exec_unread_done hwires hok rfl (buildWord_address_data rfl rfl fa d)

/-- Settles O28: the address bits above those within a page. -/
theorem writePageInstructionsComplete : Obligations.WritePageInstructionsComplete := by
  intro s fa hwires hok
  refine ⟨?p0, ?p1⟩ <;> exact exec_unread_done hwires hok rfl (buildWord_address rfl fa)

/-- Settles O29: one address bit, and the window noted. -/
theorem loadExtAddrCompletes : Obligations.LoadExtAddrCompletes := fun _ fa hwires hok =>
  exec_loadExtAddr_done hwires hok rfl (buildWord_address rfl fa)

end Sys2Proof.Machine
end

section
/-! PROOFS. The range check of the host calls (44_memory_programmer.md R311) and the choice of an opcode by organisation
and parity (R262). -/

namespace Sys2Proof.Machine

/-- Settles O34: the range is checked before anything else of the region (R311). -/
theorem outOfRangeIsRefused : Obligations.OutOfRangeIsRefused := by
  intro s rn m start hf hm
  refine ⟨fun n hn => ?read, fun data hn => ?write⟩
  case read => rw [execHostCall, hostReadMemory, if_pos hf, hm]; exact if_neg (not_le.2 hn)
  case write => rw [execHostCall, hostWriteMemory, if_pos hf, hm]; exact if_neg (not_le.2 hn)

/-- A region is word-organised exactly where READ_LO is defined (R25). -/
theorem wordOrganised_eq_true {m : Region} (h : m.ops.readLo ≠ none) : wordOrganised m = true :=
  Option.isSome_iff_ne_none.2 h

theorem wordOrganised_eq_false {m : Region} (h : m.ops.readLo = none) : wordOrganised m = false := by
  rw [wordOrganised, h]; rfl

/-- Settles O6: by the region's organisation and, of a word-organised one, the parity of the address. -/
theorem opcodeSelectionByParity : Obligations.OpcodeSelectionByParity := by
  intro m a
  refine ⟨fun h => ⟨?address, fun heven => ?even, fun hodd => ?odd⟩, fun h => ?bytes⟩
  case address => rw [fieldAddr, if_pos (wordOrganised_eq_true h), Nat.shiftRight_one]
  case even => simp [sel, wordOrganised_eq_true h, heven]
  case odd => simp [sel, wordOrganised_eq_true h, hodd]
  case bytes => simp [fieldAddr, sel, wordOrganised_eq_false h]

end Sys2Proof.Machine
end

section
/-! PROOFS. The items of a host call on the wires (Safety.lean): what they leave, when they go through, and what of the state
they neither read nor write. -/

namespace Sys2Proof.Machine

/-! ### From a state to the state after an exchange or after items -/

/-- From `s` to `t`, `calls` transport calls were made and `samples` levels drawn, and the trace grew by just `evs`, with
no progress event among them. -/
structure Exchanges (s t : State) (calls samples : Nat) (evs : List Event) : Prop
    extends Advances s t calls samples evs where
  ioDraws : t.ioDraws = s.ioDraws + calls
  grows : t.trace = s.trace ++ evs

theorem Exchanges.refl (s : State) : Exchanges s s 0 0 [] := ⟨.refl s, rfl, by simp⟩

theorem Exchanges.trans {s t u : State} {n g n' g' : Nat} {evs evs' : List Event} (h : Exchanges s t n g evs)
    (k : Exchanges t u n' g' evs') : Exchanges s u (n + n') (g + g') (evs ++ evs') :=
  ⟨h.toAdvances.trans k.toAdvances, by rw [k.ioDraws, h.ioDraws, Nat.add_assoc],
    by rw [k.grows, h.grows, List.append_assoc]⟩

theorem Exchanges.afterCmd (s : State) (c res : Cmd) (w : Option Nat) :
    Exchanges s { s.afterCmd c res with extLast := w } 96 32 (cmdEvents c res) := ⟨.afterCmd s c res w, rfl, rfl⟩

theorem Exchanges.wait (s : State) (us : Nat) : Exchanges s (s.exchanged 1 0 s.lvlSdo [.delay us]) 1 0 [.delay us] :=
  ⟨⟨rfl, rfl, fun k => s.faultAt_exchanged 1 0 k _ _, fun k => s.sample_exchanged 1 0 k _ _, _, rfl, rfl⟩, rfl, rfl⟩

/-- LOAD_EXT_ADDR is sent where it is due, if its calls do not fail (R264). -/
theorem leaIfNeeded_done (s : State) (m : Region) (a : Nat) :
    ∃ n g evs, Exchanges s (s.afterLea m a) n g evs
      ∧ (s.NoFault n → leaIfNeeded m (fieldAddr m a) s = .done () (s.afterLea m a)) := by
  unfold State.afterLea State.leaWord
  cases hT : m.ops.loadExtAddr with
  | none => exact ⟨_, _, _, .refl s, fun _ => by rw [leaIfNeeded, hT]⟩
  | some T =>
    by_cases hw : s.extLast = some (fieldAddr m a / 2 ^ s.cfg.params.addrFieldBits)
    · simp only [if_pos hw]
      exact ⟨_, _, _, .refl s, fun _ => leaIfNeeded_sameWindow m hw⟩
    · simp only [if_neg hw]
      exact ⟨_, _, _, .afterCmd s _ _ _, fun h => leaIfNeeded_newWindow hT hw h⟩

theorem afterItem_exchanges (s : State) (m : Region) (i : WireItem) :
    ∃ n g evs, Exchanges s (s.afterItem m i) n g evs := by
  cases i with
  | wait us => exact ⟨_, _, _, .wait s us⟩
  | addressed a c | readBack a v eq =>
    obtain ⟨n, g, evs, h, -⟩ := leaIfNeeded_done s m a
    exact ⟨_, _, _, h.trans (.afterCmd _ _ _ (s.afterLea m a).extLast)⟩

theorem afterItems_exchanges (s : State) (m : Region) (items : List WireItem) :
    ∃ n g evs, Exchanges s (s.afterItems m items) n g evs := by
  induction items generalizing s with
  | nil => exact ⟨_, _, _, .refl s⟩
  | cons i rest ih =>
    obtain ⟨n, g, evs, h⟩ := afterItem_exchanges s m i
    obtain ⟨n', g', evs', k⟩ := ih (s.afterItem m i)
    exact ⟨_, _, _, h.trans k⟩

@[simp] theorem State.afterItems_cfg (s : State) (m : Region) (items : List WireItem) :
    (s.afterItems m items).cfg = s.cfg := by
  obtain ⟨n, g, evs, h⟩ := afterItems_exchanges s m items
  exact h.cfg

@[simp] theorem State.afterItems_results (s : State) (m : Region) (items : List WireItem) :
    (s.afterItems m items).results = s.results := by
  obtain ⟨n, g, evs, h⟩ := afterItems_exchanges s m items
  exact h.results

/-! ### Items that go through (R136) -/

/-- None of the items' transport calls fails, and the read-backs among them are answered as they say. -/
def State.Carries (s : State) (m : Region) (items : List WireItem) : Prop :=
  s.NoFault (s.callsOf m items) ∧ s.answered m items = true

theorem answered_cons (s : State) (m : Region) (i : WireItem) (items : List WireItem) :
    s.answered m (i :: items) = (s.answered m [i] && (s.afterItem m i).answered m items) := by
  cases i with
  | _ => simp [State.answered]

theorem answered_append (s : State) (m : Region) (xs ys : List WireItem) :
    s.answered m (xs ++ ys) = (s.answered m xs && (s.afterItems m xs).answered m ys) := by
  induction xs generalizing s with
  | nil => rfl
  | cons i xs ih => rw [List.cons_append, answered_cons, ih, answered_cons s m i xs, Bool.and_assoc]; rfl

theorem noFault_add {s t : State} {n g k : Nat} {evs : List Event} (h : Exchanges s t n g evs) :
    s.NoFault (n + k) ↔ s.NoFault n ∧ t.NoFault k := by
  refine ⟨fun hs => ⟨hs.mono (by omega), h.noFault hs⟩, fun ⟨hs, ht⟩ j hj => ?_⟩
  rcases Nat.lt_or_ge j n with hn | hn
  · exact hs j hn
  · obtain ⟨i, rfl⟩ := Nat.exists_eq_add_of_le hn
    rw [← h.faultAt]
    exact ht i (by omega)

/-- Items go through where the first of them do and then, from the state those leave, the others. -/
theorem carries_append {s : State} {m : Region} {xs ys : List WireItem} :
    s.Carries m (xs ++ ys) ↔ s.Carries m xs ∧ (s.afterItems m xs).Carries m ys := by
  obtain ⟨n, g, evs, h⟩ := afterItems_exchanges s m xs
  obtain ⟨n', g', evs', k⟩ := afterItems_exchanges (s.afterItems m xs) m ys
  have hx : s.callsOf m xs = n := by rw [State.callsOf, h.ioDraws]; omega
  have hy : (s.afterItems m xs).callsOf m ys = n' := by rw [State.callsOf, k.ioDraws]; omega
  have hxy : s.callsOf m (xs ++ ys) = n + n' := by
    rw [State.callsOf, State.afterItems_append, k.ioDraws, h.ioDraws]; omega
  simp only [State.Carries, hx, hy, hxy, noFault_add h, answered_append, Bool.and_eq_true]
  tauto

theorem carries_cons {s : State} {m : Region} {i : WireItem} {items : List WireItem} :
    s.Carries m (i :: items) ↔ s.Carries m [i] ∧ (s.afterItem m i).Carries m items :=
  carries_append (xs := [i])

/-- A read-back that goes through is answered as it says. -/
theorem State.Carries.readBack {s : State} {m : Region} {a : Nat} {v : Byte} {equal : Bool}
    (h : s.Carries m [.readBack a v equal]) : (readOut m a (s.answer m a) == v) = equal := by
  simpa [State.answered] using h.2

/-! ### Updates that the wires do not see -/

/-- An update of the state that no item reads, and that may as well be made after an item. -/
structure OffWires (f : State → State) : Prop where
  cfg : ∀ s, (f s).cfg = s.cfg
  extLast : ∀ s, (f s).extLast = s.extLast
  ioDraws : ∀ s, (f s).ioDraws = s.ioDraws
  faultAt : ∀ s k, (f s).faultAt k = s.faultAt k
  response : ∀ s, (f s).response 0 = s.response 0
  afterCmd : ∀ s c res, f (s.afterCmd c res) = (f s).afterCmd c res
  noteWindow : ∀ s w, f { s with extLast := w } = { f s with extLast := w }
  afterWait : ∀ s us, f (s.exchanged 1 0 s.lvlSdo [.delay us]) = (f s).exchanged 1 0 (f s).lvlSdo [.delay us]

section
variable {f : State → State} (hf : OffWires f)
include hf

theorem OffWires.afterLea (s : State) (m : Region) (a : Nat) : f (s.afterLea m a) = (f s).afterLea m a := by
  have hword : (f s).leaWord m a = s.leaWord m a := by simp only [State.leaWord, hf.extLast, hf.cfg]
  unfold State.afterLea
  rw [hword, hf.response, hf.cfg]
  split
  · rfl
  · rw [hf.noteWindow, hf.afterCmd]

theorem OffWires.answer (s : State) (m : Region) (a : Nat) : (f s).answer m a = s.answer m a := by
  rw [State.answer, ← hf.afterLea, hf.response, State.answer]

theorem OffWires.afterItem (s : State) (m : Region) (i : WireItem) : f (s.afterItem m i) = (f s).afterItem m i := by
  cases i with
  | wait us => exact hf.afterWait s us
  | addressed a c | readBack a v eq => simp only [State.afterItem, hf.afterCmd, hf.afterLea, hf.answer]

theorem OffWires.afterItems (s : State) (m : Region) (items : List WireItem) :
    f (s.afterItems m items) = (f s).afterItems m items := by
  induction items generalizing s with
  | nil => rfl
  | cons i rest ih => rw [State.afterItems_cons, ih, hf.afterItem, ← State.afterItems_cons]

theorem OffWires.answered (s : State) (m : Region) (items : List WireItem) :
    (f s).answered m items = s.answered m items := by
  induction items generalizing s with
  | nil => rfl
  | cons i rest ih =>
    rw [answered_cons, ← hf.afterItem, ih, answered_cons s]
    cases i with
    | _ => simp only [State.answered, hf.answer]

theorem OffWires.carries (s : State) (m : Region) (items : List WireItem) :
    (f s).Carries m items ↔ s.Carries m items := by
  simp only [State.Carries, State.callsOf, ← hf.afterItems, hf.ioDraws, State.NoFault, hf.faultAt, hf.answered]

end

/-! ### The registers of a host call -/

/-- The state with the registers that a host call writes between its items. -/
def State.withRegs (s : State) (f : Fsm) (tries cursor : Nat) (pages : Memory) : State :=
  { s with fsm := f, pollTries := tries, cursor := cursor, pageVals := pages }

theorem offWires_withRegs (f : Fsm) (n q : Nat) (pv : Memory) : OffWires fun s => s.withRegs f n q pv :=
  ⟨fun _ => rfl, fun _ => rfl, fun _ => rfl, fun _ _ => rfl, fun _ => rfl, fun _ _ _ => rfl, fun _ _ => rfl,
    fun _ _ => rfl⟩

section
variable (s : State) (f f' : Fsm) (n n' q q' : Nat) (pv pv' : Memory)

@[simp] theorem State.withRegs_cfg : (s.withRegs f n q pv).cfg = s.cfg := rfl
@[simp] theorem State.withRegs_fsm : (s.withRegs f n q pv).fsm = f := rfl
@[simp] theorem State.withRegs_pollTries : (s.withRegs f n q pv).pollTries = n := rfl
@[simp] theorem State.withRegs_cursor : (s.withRegs f n q pv).cursor = q := rfl
@[simp] theorem State.withRegs_pageVals : (s.withRegs f n q pv).pageVals = pv := rfl

@[simp] theorem State.withRegs_withRegs : (s.withRegs f n q pv).withRegs f' n' q' pv' = s.withRegs f' n' q' pv' := rfl

@[simp] theorem State.afterItems_withRegs (m : Region) (items : List WireItem) :
    (s.withRegs f n q pv).afterItems m items = (s.afterItems m items).withRegs f n q pv :=
  ((offWires_withRegs f n q pv).afterItems s m items).symm

@[simp] theorem State.answer_withRegs (m : Region) (a : Nat) : (s.withRegs f n q pv).answer m a = s.answer m a :=
  (offWires_withRegs f n q pv).answer s m a

@[simp] theorem State.carries_withRegs (m : Region) (items : List WireItem) :
    (s.withRegs f n q pv).Carries m items ↔ s.Carries m items := (offWires_withRegs f n q pv).carries s m items

end

/-- Items leave the registers of a host call. -/
theorem State.afterItems_regs (s : State) (m : Region) (items : List WireItem) :
    s.afterItems m items = (s.afterItems m items).withRegs s.fsm s.pollTries s.cursor s.pageVals :=
  s.afterItems_withRegs s.fsm s.pollTries s.cursor s.pageVals m items

section
variable (s : State) (m : Region) (items : List WireItem)

@[simp] theorem State.afterItems_fsm : (s.afterItems m items).fsm = s.fsm :=
  (congrArg State.fsm (s.afterItems_regs m items) :)

@[simp] theorem State.afterItems_pollTries : (s.afterItems m items).pollTries = s.pollTries :=
  (congrArg State.pollTries (s.afterItems_regs m items) :)

@[simp] theorem State.afterItems_cursor : (s.afterItems m items).cursor = s.cursor :=
  (congrArg State.cursor (s.afterItems_regs m items) :)

@[simp] theorem State.afterItems_pageVals : (s.afterItems m items).pageVals = s.pageVals :=
  (congrArg State.pageVals (s.afterItems_regs m items) :)

end

section
variable (s : State) (m : Region) (i : WireItem)

@[simp] theorem State.afterItem_cfg : (s.afterItem m i).cfg = s.cfg := s.afterItems_cfg m [i]
@[simp] theorem State.afterItem_fsm : (s.afterItem m i).fsm = s.fsm := s.afterItems_fsm m [i]
@[simp] theorem State.afterItem_pollTries : (s.afterItem m i).pollTries = s.pollTries := s.afterItems_pollTries m [i]
@[simp] theorem State.afterItem_cursor : (s.afterItem m i).cursor = s.cursor := s.afterItems_cursor m [i]
@[simp] theorem State.afterItem_pageVals : (s.afterItem m i).pageVals = s.pageVals := s.afterItems_pageVals m [i]

@[simp] theorem State.afterItem_withRegs (f : Fsm) (n q : Nat) (pv : Memory) :
    (s.withRegs f n q pv).afterItem m i = (s.afterItem m i).withRegs f n q pv := s.afterItems_withRegs f n q pv m [i]

end

theorem State.clearPoll_eq (s : State) : s.clearPoll = s.withRegs s.fsm 0 s.cursor s.pageVals := rfl

theorem State.countPoll_eq (s : State) : s.countPoll = s.withRegs s.fsm (s.pollTries + 1) s.cursor s.pageVals := rfl

/-! ### Progress events left out (R310, D28) -/

/-- The state without the progress events of its trace. -/
def State.quiet (s : State) : State := { s with trace := withoutProgress s.trace }

@[simp] theorem State.quiet_withRegs (s : State) (f : Fsm) (n q : Nat) (pv : Memory) :
    (s.withRegs f n q pv).quiet = s.quiet.withRegs f n q pv := rfl

@[simp] theorem State.quiet_progress (s : State) (k total : Nat) : (s.emit (.progress k total)).quiet = s.quiet := by
  have htrace : withoutProgress (s.trace ++ [.progress k total]) = withoutProgress s.trace := by
    rw [withoutProgress_append]; exact List.append_nil _
  simp only [State.quiet, State.emit, htrace]

theorem offWires_quiet : OffWires State.quiet where
  cfg _ := rfl
  extLast _ := rfl
  ioDraws _ := rfl
  faultAt _ _ := rfl
  response _ := rfl
  afterCmd s c res := by simp [State.quiet, State.afterCmd, State.exchanged]
  noteWindow _ _ := rfl
  afterWait s us := by simp [State.quiet, State.exchanged]; rfl

@[simp] theorem State.quiet_afterItems (s : State) (m : Region) (items : List WireItem) :
    (s.afterItems m items).quiet = s.quiet.afterItems m items := offWires_quiet.afterItems s m items

section
variable {t u : State} {f : Fsm} {n q : Nat} {pv : Memory} (h : t.quiet = (u.withRegs f n q pv).quiet) (m : Region)
include h

/-- A state that, progress events aside, is another with its own registers has that other's configuration. -/
theorem cfg_of_quiet : t.cfg = u.cfg := (congrArg State.cfg h :)

theorem carries_of_quiet {items : List WireItem} (hu : u.Carries m items) : t.Carries m items := by
  rwa [← offWires_quiet.carries, h, offWires_quiet.carries, State.carries_withRegs]

theorem answer_of_quiet (a : Nat) : t.answer m a = u.answer m a := by
  rw [← offWires_quiet.answer, h, offWires_quiet.answer, State.answer_withRegs]

/-- Its registers are its own. -/
theorem regs_of_quiet : t.fsm = f ∧ t.pollTries = n ∧ t.cursor = q ∧ t.pageVals = pv :=
  ⟨(congrArg State.fsm h :), (congrArg State.pollTries h :), (congrArg State.cursor h :), (congrArg State.pageVals h :)⟩

/-- The same items leave such a state again, whatever is then written to its registers. -/
theorem afterItems_of_quiet (items : List WireItem) (f' : Fsm) (n' q' : Nat) (pv' : Memory) :
    ((t.afterItems m items).withRegs f' n' q' pv').quiet = ((u.afterItems m items).withRegs f' n' q' pv').quiet := by
  rw [State.quiet_withRegs, State.quiet_afterItems, h]
  simp

/-- The answer to a command after the same items. -/
theorem answer_afterItems_of_quiet (items : List WireItem) (a : Nat) :
    (t.afterItems m items).answer m a = (u.afterItems m items).answer m a := by
  have hafter := answer_of_quiet (afterItems_of_quiet h m items f n q pv) m a
  rwa [State.answer_withRegs] at hafter

end

end Sys2Proof.Machine
end

section
/-! PROOFS. The parts of a host call as items that go through: a delay, an addressed command, a read-back, and the poll with its
three ends (44_memory_programmer.md R263, R264, R268, R282, R283). -/

namespace Sys2Proof.Machine

/-! ### Delays and addressed commands (R133, R263) -/

section
variable {s : State} {m : Region}

theorem delay_done {us : Nat} (h : s.Carries m [.wait us]) : delay us s = .done () (s.afterItem m (.wait us)) := by
  have hcalls : s.callsOf m [.wait us] = 1 := Nat.add_sub_cancel_left ..
  exact delay_exchanged us (h.1 0 (by rw [hcalls]; exact Nat.one_pos))

/-- An addressed command after its LOAD_EXT_ADDR, if one is due. -/
theorem transmitCmd_after_lea {a : Nat} {c : Cmd} (h : s.NoFault (s.callsOf m [.addressed a c])) :
    ((leaIfNeeded m (fieldAddr m a) s).bind fun _ t => transmitCmd c t)
      = .done (s.answer m a) (s.afterItem m (.addressed a c)) := by
  obtain ⟨n, g, evs, hlea, hdone⟩ := leaIfNeeded_done s m a
  have hcmd := hlea.trans (.afterCmd _ c (s.answer m a) (s.afterLea m a).extLast)
  have hcalls : s.callsOf m [.addressed a c] = n + 96 := by
    have hdraws : (s.afterItems m [.addressed a c]).ioDraws = s.ioDraws + (n + 96) := hcmd.ioDraws
    rw [State.callsOf, hdraws, Nat.add_sub_cancel_left]
  rw [hcalls, noFault_add hlea] at h
  obtain ⟨hbefore, hafter⟩ := h
  rw [hdone hbefore, Run.bind_done, transmitCmd_done c hafter]
  rfl

variable (rn : RegionName)

/-- A command of a defined opcode (R24, R263). -/
theorem withOp_send_done {o : OpName} {a : Nat} {d : Option Byte} (ho : (regionOp m o).isSome)
    (h : s.Carries m [.addressed a (build (opOr m o) (some (fieldAddr m a)) d)]) :
    withOp rn m o (fun T t => send m T a d t) s
      = .done (s.answer m a) (s.afterItem m (.addressed a (build (opOr m o) (some (fieldAddr m a)) d))) := by
  obtain ⟨T, hT⟩ := Option.isSome_iff_exists.1 ho
  have hop : opOr m o = T := by rw [opOr, hT, Option.getD_some]
  rw [← transmitCmd_after_lea h.1, withOp, hT, hop]
  rfl

/-- A READ returns its output byte (R268). -/
theorem readByte_done {a : Nat} {v : Byte} {equal : Bool} (ho : (regionOp m (sel m .read a)).isSome)
    (h : s.Carries m [.readBack a v equal]) :
    readByte rn m a s = .done (readOut m a (s.answer m a)) (s.afterItem m (.readBack a v equal)) := by
  rw [readByte_eq rn ho, ← Run.bind_assoc, transmitCmd_after_lea h.1, Run.bind_done]
  rfl

end

/-! ### The poll (R282, R283) -/

/-- What a poll puts on the wires before its read-back `n + 1`, where the `n` before it do not match (R282). -/
def pollBefore (m : Region) (a : Nat) (v : Byte) (n : Nat) : List WireItem :=
  failedPolls m a v n ++ [.wait m.minWriteDelayUs]

section
variable {s : State} (rn : RegionName) {m : Region} {a : Nat} (ho : (regionOp m (sel m .read a)).isSome) {d : Byte}
include ho

/-- The round whose read-back matches ends the poll. -/
theorem pollLoop_matches (n : Nat) (h : s.Carries m [.wait m.minWriteDelayUs, .readBack a d true]) :
    pollLoop rn m a d (n + 1) s = .done () (s.afterItems m [.wait m.minWriteDelayUs, .readBack a d true]) := by
  obtain ⟨hwait, hread⟩ := carries_cons.1 h
  rw [pollLoop, delay_done hwait, Run.bind_done, readByte_done rn ho hread, Run.bind_done,
    if_pos (beq_iff_eq.1 hread.readBack)]
  rfl

/-- A round whose read-back does not match is counted, and is the last at the bound. -/
theorem pollLoop_differs (n : Nat) (h : s.Carries m [.wait m.minWriteDelayUs, .readBack a d false]) :
    pollLoop rn m a d (n + 1) s =
      let t := (s.afterItems m [.wait m.minWriteDelayUs, .readBack a d false]).withRegs s.fsm (s.pollTries + 1) s.cursor
        s.pageVals
      if s.pollTries + 1 = s.cfg.params.pollBound then
        .raised (.pollTimeout rn a d (readOut m a ((s.afterItems m [.wait m.minWriteDelayUs]).answer m a))) t
      else pollLoop rn m a d n t := by
  obtain ⟨hwait, hread⟩ := carries_cons.1 h
  rw [pollLoop, delay_done hwait, Run.bind_done, readByte_done rn ho hread, Run.bind_done,
    if_neg (beq_eq_false_iff_ne.1 hread.readBack)]
  simp [State.countPoll_eq]

/-- Rounds below the bound that do not match leave their count. -/
theorem pollLoop_failedPolls {k n : Nat} (hbound : s.pollTries + (k + (n + 1)) = s.cfg.params.pollBound)
    (h : s.Carries m (failedPolls m a d k)) :
    pollLoop rn m a d (k + (n + 1)) s = pollLoop rn m a d (n + 1)
      ((s.afterItems m (failedPolls m a d k)).withRegs s.fsm (s.pollTries + k) s.cursor s.pageVals) := by
  induction k generalizing s with
  | zero => rw [Nat.zero_add]; rfl
  | succ k ih =>
    have hsucc : failedPolls m a d (k + 1) = [.wait m.minWriteDelayUs, .readBack a d false] ++ failedPolls m a d k := rfl
    have hrounds : k + 1 + (n + 1) = k + (n + 1) + 1 := by omega
    have hcount : s.pollTries + 1 + k = s.pollTries + (k + 1) := by omega
    rw [hsucc, carries_append] at h
    obtain ⟨hround, hlater⟩ := h
    rw [hrounds, pollLoop_differs rn ho _ hround, if_neg (by omega), ih (by simp; omega) (by simpa using hlater)]
    simp [hsucc, hcount]

/-- A poll ends at its first match, which leaves the count of the read-backs before it (R282). -/
theorem poll_matched {k : Nat} (hd : m.pollSentinels.contains d = false) (hk : k < s.cfg.params.pollBound)
    (h : s.Carries m (matchedPoll m a d k)) :
    poll rn m a d s
      = .done () ((s.afterItems m (matchedPoll m a d k)).withRegs s.fsm k s.cursor s.pageVals) := by
  obtain ⟨n, hn⟩ := Nat.exists_eq_add_of_lt hk
  obtain ⟨hfailed, hlast⟩ := carries_append.1 h
  rw [poll, if_neg (by rw [hd]; decide), hn, Nat.add_assoc, State.clearPoll_eq,
    pollLoop_failedPolls rn ho (by simp; omega) (by simpa using hfailed), pollLoop_matches rn ho _ (by simpa using hlast)]
  simp [matchedPoll]

/-- A poll that no read-back matches ends at the bound, with the last read-back (R282, R333). -/
theorem poll_timesOut {n : Nat} (hd : m.pollSentinels.contains d = false) (hn : s.cfg.params.pollBound = n + 1)
    (h : s.Carries m (pollBefore m a d n ++ [.readBack a d false])) :
    poll rn m a d s
      = .raised (.pollTimeout rn a d (readOut m a ((s.afterItems m (pollBefore m a d n)).answer m a)))
        ((s.afterItems m (pollBefore m a d n ++ [.readBack a d false])).withRegs s.fsm (n + 1) s.cursor s.pageVals) := by
  rw [pollBefore, List.append_assoc] at h
  obtain ⟨hfailed, hlast⟩ := carries_append.1 h
  rw [poll, if_neg (by rw [hd]; decide), hn, State.clearPoll_eq, ← Nat.add_zero n, Nat.add_assoc,
    pollLoop_failedPolls rn ho (by simp; omega) (by simpa using hfailed),
    pollLoop_differs rn ho _ (by simpa using hlast)]
  simp [hn, pollBefore]

omit ho in
/-- Of a sentinel nothing is read back (R283). -/
theorem poll_sentinel (hd : m.pollSentinels.contains d = true) (h : s.Carries m [.wait m.maxWriteDelayUs]) :
    poll rn m a d s = .done () (s.afterItem m (.wait m.maxWriteDelayUs)) := by
  rw [poll, if_pos hd, delay_done h]

end

end Sys2Proof.Machine
end

section
/-! PROOFS. `write_memory` on a region that is not paged, and how every `write_memory` ends (44_memory_programmer.md R280 to
R285, R333). -/

namespace Sys2Proof.Machine

/-! ### One byte of a region that is not paged (R280 to R283) -/

/-- The pre-read and the write of a byte that differs from it (R281). -/
def writtenItems (m : Region) (a : Nat) (d : Byte) : List WireItem :=
  [.readBack a d false, .addressed a (writeCmd m a d)]

section
variable {s : State} (rn : RegionName) {m : Region} {a : Nat} (hread : (regionOp m (sel m .read a)).isSome)
  (hwrite : (regionOp m (sel m .write a)).isSome) {d : Byte}
include hread

/-- A byte whose pre-read equals it is not written (R281). -/
theorem writeByte_skipped (h : s.Carries m [.readBack a d true]) :
    writeByte rn m a d s = .done () (s.afterItem m (.readBack a d true)) := by
  rw [writeByte, readByte_done rn hread h, Run.bind_done, if_pos (beq_iff_eq.1 h.readBack)]

include hwrite

/-- Another byte is written, and then polled (R281, R282). -/
theorem writeByte_written (h : s.Carries m (writtenItems m a d)) :
    writeByte rn m a d s = poll rn m a d (s.afterItems m (writtenItems m a d)) := by
  obtain ⟨hpre, hcmd⟩ := carries_cons.1 h
  rw [writeByte, readByte_done rn hread hpre, Run.bind_done, if_neg (beq_eq_false_iff_ne.1 hpre.readBack),
    withOp_send_done rn hwrite hcmd, Run.bind_done]
  rfl

/-- The three ways the write of a byte goes (R280 to R283). -/
theorem writeByte_done {w : ByteWrite} (hw : w.allowed m s.cfg.params.pollBound d = true)
    (h : s.Carries m (w.items m a d)) :
    writeByte rn m a d s
      = .done () ((s.afterItems m (w.items m a d)).withRegs s.fsm (triesAfterWrites s.pollTries [(d, w)]) s.cursor
          s.pageVals) := by
  cases w with
  | skipped => rw [writeByte_skipped rn hread h]; exact congrArg _ (s.afterItems_regs m [.readBack a d true])
  | sentinel =>
    obtain ⟨hbyte, hwait⟩ := carries_append (xs := writtenItems m a d).1 h
    rw [writeByte_written rn hread hwrite hbyte, poll_sentinel rn hw hwait]
    exact congrArg _ (s.afterItems_regs m (ByteWrite.sentinel.items m a d))
  | polled k =>
    obtain ⟨hbyte, hpoll⟩ := carries_append (xs := writtenItems m a d).1 h
    simp only [ByteWrite.allowed, Bool.and_eq_true, Bool.not_eq_true', decide_eq_true_eq] at hw
    obtain ⟨hd, hk⟩ := hw
    rw [writeByte_written rn hread hwrite hbyte, poll_matched rn hread hd (by simpa using hk) hpoll]
    simp [ByteWrite.items, writtenItems, triesAfterWrites]

/-- The write of a byte whose poll times out. -/
theorem writeByte_timesOut {n : Nat} (hd : d ∉ m.pollSentinels) (hn : s.cfg.params.pollBound = n + 1)
    {tried : List WireItem} (htried : tried = writtenItems m a d ++ pollBefore m a d n)
    (h : s.Carries m (tried ++ [.readBack a d false])) :
    writeByte rn m a d s
      = .raised (.pollTimeout rn a d (readOut m a ((s.afterItems m tried).answer m a)))
        ((s.afterItems m (tried ++ [.readBack a d false])).withRegs s.fsm (n + 1) s.cursor s.pageVals) := by
  rw [htried, List.append_assoc] at h ⊢
  obtain ⟨hbyte, hpoll⟩ := carries_append.1 h
  rw [writeByte_written rn hread hwrite hbyte,
    poll_timesOut rn hread (by simpa using hd) (by simpa using hn) hpoll]
  simp

end

/-! ### The loop of `write_memory` on a region that is not paged (R285) -/

/-- The bytes that are written come before the others, and leave the state of their items, progress events aside. -/
theorem writeLoop_append {s : State} (rn : RegionName) {m : Region} (hread : ∀ a, (regionOp m (sel m .read a)).isSome)
    (hwrite : ∀ a, (regionOp m (sel m .write a)).isSome) (start total q : Nat) (writes : List (Byte × ByteWrite))
    (rest : List Byte) (hw : ∀ w ∈ writes, w.2.allowed m s.cfg.params.pollBound w.1 = true)
    (h : s.Carries m (writeItems m (start + q) writes)) :
    ∃ t, writeLoop rn m start total (writes.map Prod.fst ++ rest) q s
        = writeLoop rn m start total rest (q + writes.length) t
      ∧ t.quiet = ((s.afterItems m (writeItems m (start + q) writes)).withRegs s.fsm
          (triesAfterWrites s.pollTries writes) s.cursor s.pageVals).quiet := by
  induction writes generalizing q s with
  | nil => exact ⟨s, rfl, rfl⟩
  | cons e writes ih =>
    obtain ⟨d, w⟩ := e
    obtain ⟨hbyte, hlater⟩ := carries_append.1 h
    have hdone := writeByte_done rn (hread _) (hwrite _) (hw _ List.mem_cons_self) hbyte
    obtain ⟨t, hloop, ht⟩ := ih (s := ((s.afterItems m (w.items m (start + q) d)).withRegs s.fsm
      (triesAfterWrites s.pollTries [(d, w)]) s.cursor s.pageVals).emit (.progress (q + 1) total)) (q + 1)
      (by simpa using fun x hx => hw x (List.mem_cons_of_mem _ hx))
      (carries_of_quiet (State.quiet_progress ..) m (by simpa [Nat.add_assoc] using hlater))
    refine ⟨t, ?_, ?_⟩
    · rw [List.map_cons, List.cons_append, writeLoop, hdone, Run.bind_done, hloop, List.length_cons, Nat.add_assoc,
        Nat.add_comm 1]
    · rw [ht]
      simp [writeItems, triesAfterWrites, Nat.add_assoc]

/-! ### How `write_memory` ends (R285, R290, R333) -/

/-- The state that a host call's items start from: no window is known (R43). -/
def State.startCall (s : State) : State := { s with extLast := none }

/-- States that differ in progress events only differ in their traces only. -/
theorem eq_of_quiet {s t : State} (h : t.quiet = s.quiet) : t = { s with trace := t.trace } := by
  change { t.quiet with trace := t.trace } = _
  rw [h]
  rfl

/-- A call that ends, progress events aside, in the state after its items, with its own registers: what it returns, what
it traces and the rest of its state. -/
theorem writeMemory_ends {s v : State} {rn : RegionName} {m : Region} {start : Nat} {data : List Byte} {r : CallResult}
    {items : List WireItem} {n q : Nat} {pv : Memory} (hf : s.fsm = .enabled) (hm : findRegion s rn = some m)
    (hsize : start + data.length ≤ m.size) (hops : undefinedRegionOp? rn m (writeNeeds m) = none)
    (hend : complete s.fsm (writeBody rn m start data s) = returnResult r v)
    (hv : v.quiet = ((s.startCall.afterItems m items).withRegs .enabled n q pv).quiet) :
    ∃ t, execHostCall (.writeMemory rn start data) s = .next t ∧ t.results = s.results ++ [r]
      ∧ AddsEventsOf s (s.startCall.afterItems m items) t
      ∧ t = { s.startCall.afterItems m items with
          trace := t.trace, results := t.results, pollTries := n, cursor := q, pageVals := pv } := by
  obtain ⟨calls, samples, evs, hitems⟩ := afterItems_exchanges s.startCall m items
  have hgrows : (s.startCall.afterItems m items).trace = s.trace ++ evs := hitems.grows
  have hpure : withoutProgress evs = evs := by
    obtain ⟨new, hnew, hevs⟩ := hitems.trace
    rwa [List.append_cancel_left (hnew.symm.trans hgrows)] at hevs
  obtain ⟨_, hreturned⟩ := checked_returned (c := none) (writeBody_core rn m start data s)
  rw [checked_none rfl, hend] at hreturned
  obtain ⟨new, hnew⟩ := hreturned.trace
  have htrace : withoutProgress v.trace = withoutProgress (s.trace ++ evs) := hgrows ▸ congrArg State.trace hv
  have hfsm : (s.startCall.afterItems m items).fsm = .enabled := by simpa [State.startCall] using hf
  have hresults : v.results = s.results := (congrArg State.results hv).trans (s.startCall.afterItems_results m items)
  refine ⟨returnResult r v, ?call, by simp [hresults], ⟨hreturned.trace, ?trace⟩, ?state⟩
  case call => simp [execHostCall, hostWriteMemory, hf, hm, hsize, checked_none hops, ← hend]
  case trace =>
    have hcancel : withoutProgress new = withoutProgress evs := by
      rw [returnResult_trace] at hnew
      rw [← hnew] at htrace
      simpa using htrace
    simp only [newEvents, ← hnew, hgrows, List.drop_left, hcancel, hpure]
  case state =>
    rw [eq_of_quiet hv, ← hfsm]
    rfl

/-- What `write_memory` does after its checks, up to its return (R285, R290). -/
def writeRun (rn : RegionName) (m : Region) (start : Nat) (data : List Byte) (s : State) : Run Unit :=
  if paged m then pagedLoop rn m start data.length data 0 (s.startCall.withRegs .writing s.pollTries s.cursor [])
  else writeLoop rn m start data.length data 0 (s.startCall.withRegs .writing s.pollTries s.cursor s.pageVals)

theorem writeBody_eq (rn : RegionName) (m : Region) (start : Nat) (data : List Byte) (s : State) :
    writeBody rn m start data s
      = (writeRun rn m start data s).bind fun _ t => .done .ok (t.withRegs .enabled t.pollTries t.cursor t.pageVals) := rfl

section
variable {s t : State} {rn : RegionName} {m : Region} {start : Nat} {data : List Byte} {items : List WireItem} {f : Fsm}
  {n q : Nat} {pv : Memory} (hf : s.fsm = .enabled) (hm : findRegion s rn = some m)
  (hsize : start + data.length ≤ m.size) (hops : undefinedRegionOp? rn m (writeNeeds m) = none)
  (ht : t.quiet = ((s.startCall.afterItems m items).withRegs f n q pv).quiet)
include hf hm hsize hops ht

/-- A call that is done returns Ok. -/
theorem writeMemory_ok (hrun : writeRun rn m start data s = .done () t) :
    ∃ t, execHostCall (.writeMemory rn start data) s = .next t ∧ t.results = s.results ++ [.ok]
      ∧ AddsEventsOf s (s.startCall.afterItems m items) t
      ∧ t = { s.startCall.afterItems m items with
          trace := t.trace, results := t.results, pollTries := n, cursor := q, pageVals := pv } := by
  refine writeMemory_ends hf hm hsize hops (v := t.withRegs .enabled t.pollTries t.cursor t.pageVals) ?_ ?_
  · rw [writeBody_eq, hrun]; rfl
  · change t.quiet.withRegs .enabled t.quiet.pollTries t.quiet.cursor t.quiet.pageVals = _
    rw [ht]; rfl

/-- A call that times out returns the error, Enabled, with `page_vals` empty (R333). -/
theorem writeMemory_pollTimeout {a : Nat} {d v : Byte}
    (hrun : writeRun rn m start data s = .raised (.pollTimeout rn a d v) t) :
    ∃ t, execHostCall (.writeMemory rn start data) s = .next t
      ∧ t.results = s.results ++ [.error (.pollTimeout rn a d v)]
      ∧ AddsEventsOf s (s.startCall.afterItems m items) t
      ∧ t = { s.startCall.afterItems m items with
          trace := t.trace, results := t.results, pollTries := n, cursor := q, pageVals := [] } := by
  refine writeMemory_ends hf hm hsize hops (v := t.withRegs .enabled t.pollTries t.cursor []) ?_ ?_
  · rw [writeBody_eq, hrun]; rfl
  · change t.quiet.withRegs .enabled t.quiet.pollTries t.quiet.cursor [] = _
    rw [ht]; rfl

end

/-! ### The obligation -/

section
variable {s : State} (rn : RegionName) {m : Region} (start : Nat) {writes : List (Byte × ByteWrite)}
  (hpaged : paged m = false) (hops : undefinedRegionOp? rn m (writeNeeds m) = none)
  (hw : ∀ w ∈ writes, w.2.allowed m s.cfg.params.pollBound w.1 = true)
include hpaged hops hw

/-- The bytes that are written come before the others. -/
theorem writeRun_append (rest : List Byte) (h : s.startCall.Carries m (writeItems m start writes)) :
    ∃ t, writeRun rn m start (writes.map Prod.fst ++ rest) s
        = writeLoop rn m start (writes.map Prod.fst ++ rest).length rest writes.length t
      ∧ t.quiet = ((s.startCall.afterItems m (writeItems m start writes)).withRegs .writing
          (triesAfterWrites s.pollTries writes) s.cursor s.pageVals).quiet := by
  obtain ⟨hread, -, hwrite⟩ := writeNeeds_defined hops
  have hloop := writeLoop_append (s := s.startCall.withRegs .writing s.pollTries s.cursor s.pageVals) rn hread
    (hwrite hpaged) start (writes.map Prod.fst ++ rest).length 0 writes rest hw (by simpa using h)
  rw [writeRun, if_neg (by rw [hpaged]; decide)]
  simpa using hloop

/-- The next byte times out. -/
theorem writeRun_timesOut {d : Byte} (rest : List Byte) {n : Nat} (hd : d ∉ m.pollSentinels)
    (hn : s.cfg.params.pollBound = n + 1) {a : Nat} (ha : start + writes.length = a) {last : List WireItem}
    (hlast : last = writtenItems m a d ++ pollBefore m a d n)
    (h : s.startCall.Carries m (writeItems m start writes ++ (last ++ [.readBack a d false]))) :
    ∃ t, writeRun rn m start (writes.map Prod.fst ++ d :: rest) s
        = .raised (.pollTimeout rn a d
            (readOut m a ((s.startCall.afterItems m (writeItems m start writes ++ last)).answer m a))) t
      ∧ t.quiet = ((s.startCall.afterItems m (writeItems m start writes ++ (last ++ [.readBack a d false]))).withRegs
          .writing (n + 1) s.cursor s.pageVals).quiet := by
  obtain ⟨hread, -, hwrite⟩ := writeNeeds_defined hops
  obtain ⟨hbefore, hbyte⟩ := carries_append.1 h
  obtain ⟨t, hrun, ht⟩ := writeRun_append rn start hpaged hops hw (d :: rest) hbefore
  have hbound : t.cfg.params.pollBound = n + 1 := by simpa [cfg_of_quiet ht, State.startCall] using hn
  have hraised := writeByte_timesOut rn (hread a) (hwrite hpaged a) hd hbound hlast (carries_of_quiet ht m hbyte)
  obtain ⟨hfsm, -, hcursor, hpages⟩ := regs_of_quiet ht
  rw [hfsm, hcursor, hpages] at hraised
  rw [State.afterItems_append, State.afterItems_append]
  refine ⟨_, ?_, afterItems_of_quiet ht m _ .writing (n + 1) s.cursor s.pageVals⟩
  rw [hrun, writeLoop, ha, hraised, Run.bind_raised, answer_afterItems_of_quiet ht]

end

/-- Settles O48: the loop goes through the bytes that are written, and ends there or with the time-out of the next. -/
theorem writeMemoryWritesBytesInOrder : Obligations.WriteMemoryWritesBytesInOrder := by
  intro s rn m start writes hf hm hpaged hops hw s₀ items u
  refine ⟨?done, ?timesOut⟩
  case done =>
    intro hsize hok hans
    obtain ⟨t, hrun, ht⟩ := writeRun_append rn start hpaged hops hw [] ⟨hok, hans⟩
    rw [List.append_nil] at hrun
    have hkept : t.quiet = (u.withRegs .writing (triesAfterWrites s.pollTries writes) u.cursor u.pageVals).quiet := by
      rw [ht, State.afterItems_cursor, State.afterItems_pageVals]; rfl
    exact writeMemory_ok hf hm (by simpa using hsize) hops hkept hrun
  case timesOut =>
    intro d rest n hd hn hsize a tried u' hok hans
    have htried : tried = items ++ (writtenItems m a d ++ pollBefore m a d n) := by
      simp [tried, writtenItems, pollBefore]
    have hcarries : s.startCall.Carries m (tried ++ [.readBack a d false]) := ⟨hok, hans⟩
    rw [htried, List.append_assoc] at hcarries
    obtain ⟨t, hrun, ht⟩ := writeRun_timesOut rn start hpaged hops hw rest hd hn rfl rfl hcarries
    rw [← htried] at hrun
    rw [← List.append_assoc, ← htried] at ht
    have hkept : t.quiet = (u'.withRegs .writing (n + 1) u'.cursor u'.pageVals).quiet := by
      rw [ht, State.afterItems_cursor, State.afterItems_pageVals]; rfl
    exact writeMemory_pollTimeout hf hm (by simpa using hsize) hops hkept hrun

end Sys2Proof.Machine
end

section
/-! PROOFS. `write_memory` on a paged region: the pages of a range, their polled bytes, and the loop over them
(44_memory_programmer.md R290 to R293, R333). -/

namespace Sys2Proof.Machine

/-! ### The bytes of a page (R45, R290, R291) -/

/-- The cells of the listed bytes at addresses `a`, `a + 1`, …: what loading them leaves in `page_vals`. -/
def pageCells (a : Nat) (ds : List Byte) : Memory := (ds.zipIdx a).map Prod.swap

theorem pageCells_cons (a : Nat) (d : Byte) (ds : List Byte) :
    pageCells a (d :: ds) = (a, d) :: pageCells (a + 1) ds := rfl

theorem le_of_mem_pageCells {a : Nat} {ds : List Byte} {c : Host.Cell} (h : c ∈ pageCells a ds) : a ≤ c.1 := by
  obtain ⟨x, hx, rfl⟩ := List.mem_map.1 h
  exact List.le_snd_of_mem_zipIdx hx

theorem pageCells_wf (a : Nat) (ds : List Byte) : Memory.wf (pageCells a ds) = true := by
  induction ds generalizing a with
  | nil => rfl
  | cons d ds ih => exact Memory.wf_cons_iff.2 ⟨ih (a + 1), fun c hc => le_of_mem_pageCells hc⟩

/-- A byte stored above every listed one is listed last. -/
theorem Memory.store_above {pv : Memory} {a : Nat} (h : ∀ c ∈ pv, c.1 < a) (d : Byte) :
    Memory.store pv a d = pv ++ [(a, d)] := by
  induction pv with
  | nil => rfl
  | cons c rest ih =>
    have hc : c.1 < a := h c List.mem_cons_self
    rw [Memory.store, if_neg hc.not_gt, if_neg hc.ne', ih fun x hx => h x (List.mem_cons_of_mem _ hx), List.cons_append]

/-- In canonical form the highest-addressed byte that is not 0xFF is the last of those listed (R291). -/
theorem Memory.highestNotErased_eq_find? {pv : Memory} (h : Memory.wf pv = true) :
    Memory.highestNotErased pv = pv.reverse.find? fun c => c.2 ≠ 0xFF#8 := by
  induction pv with
  | nil => rfl
  | cons c rest ih =>
    obtain ⟨hrest, hlt⟩ := Memory.wf_cons_iff.1 h
    rw [Memory.highestNotErased, ih hrest, List.reverse_cons, List.find?_append]
    cases hfind : rest.reverse.find? fun c => c.2 ≠ 0xFF#8 with
    | none => by_cases hc : c.2 = 0xFF#8 <;> simp [hc]
    | some x =>
      have hx : c.1 < x.1 := hlt x (List.mem_reverse.1 (List.mem_of_find?_eq_some hfind))
      simp [hx.not_gt]

/-- The byte a page poll reads is that of the claim. -/
theorem highestNotErased_pageCells (a : Nat) (ds : List Byte) :
    Memory.highestNotErased (pageCells a ds) = (polledByte a ds).map Prod.swap := by
  rw [Memory.highestNotErased_eq_find? (pageCells_wf a ds), pageCells, ← List.map_reverse, List.find?_map]
  rfl

theorem mod_add_one_of_lt {a p : Nat} (h : a % p + 1 < p) : (a + 1) % p = a % p + 1 := by
  have hone : 1 % p = 1 := Nat.mod_eq_of_lt (by omega)
  rw [Nat.add_mod_of_add_mod_lt (by rwa [hone]), hone]

/-- Two addresses next to each other in one page have one base (R69). -/
theorem pageBase_succ {m : Region} {a : Nat} (h : a % m.pageSize + 1 < m.pageSize) :
    pageBase m (a + 1) = pageBase m a := by
  rw [pageBase, pageBase, mod_add_one_of_lt h, Nat.add_sub_add_right]

/-! ### A page is loaded (R290) -/

theorem loadItems_cons (m : Region) (a : Nat) (d : Byte) (ds : List Byte) :
    loadItems m a (d :: ds) = .addressed a (loadCmd m a d) :: loadItems m (a + 1) ds := rfl

section
variable (rn : RegionName) {m : Region} (hload : ∀ a, (regionOp m (sel m .loadpage a)).isSome)
include hload

/-- A byte above those loaded is loaded, and the page flushed where it or the range ends. -/
theorem pagedLoop_load {s : State} {start q a : Nat} (ha : start + q = a) (total : Nat) {d : Byte} (rest : List Byte)
    (hpv : ∀ c ∈ s.pageVals, c.1 < a) (h : s.Carries m [.addressed a (loadCmd m a d)]) :
    pagedLoop rn m start total (d :: rest) q s =
      let t := (s.afterItem m (.addressed a (loadCmd m a d))).withRegs s.fsm s.pollTries q (s.pageVals ++ [(a, d)])
      if (a + 1) % m.pageSize = 0 ∨ rest = [] then
        (flushPage rn m (pageBase m a) t).bind fun _ u =>
        pagedLoop rn m start total rest (q + 1) (u.emit (.progress (q + 1) total))
      else pagedLoop rn m start total rest (q + 1) t := by
  have hsent := withOp_send_done (s := s.withRegs s.fsm s.pollTries q s.pageVals) rn (hload a)
    ((State.carries_withRegs ..).2 h)
  rw [← loadCmd, State.afterItem_withRegs] at hsent
  rw [pagedLoop, ← Memory.store_above hpv, ha]
  exact congrArg (Run.bind · _) hsent

/-- The bytes of one page are loaded, and the page is flushed. -/
theorem pagedLoop_page {s : State} {start q a : Nat} (ha : start + q = a) (total : Nat) (d : Byte) (ds rest : List Byte)
    (hpv : ∀ c ∈ s.pageVals, c.1 < a) (hpage : a % m.pageSize + (ds.length + 1) ≤ m.pageSize)
    (hend : rest = [] ∨ (a + (ds.length + 1)) % m.pageSize = 0) (h : s.Carries m (loadItems m a (d :: ds))) :
    pagedLoop rn m start total (d :: (ds ++ rest)) q s =
      (flushPage rn m (pageBase m a) ((s.afterItems m (loadItems m a (d :: ds))).withRegs s.fsm s.pollTries
        (q + ds.length) (s.pageVals ++ pageCells a (d :: ds)))).bind fun _ u =>
      pagedLoop rn m start total rest (q + (ds.length + 1)) (u.emit (.progress (q + (ds.length + 1)) total)) := by
  induction ds generalizing d q a s with
  | nil =>
    have hflush : (a + 1) % m.pageSize = 0 ∨ ([] ++ rest) = [] := hend.symm
    rw [pagedLoop_load rn hload ha total _ hpv h]
    simp only [if_pos hflush]
    rfl
  | cons d' ds ih =>
    rw [loadItems_cons, carries_cons] at h
    obtain ⟨hfirst, hlater⟩ := h
    rw [List.length_cons] at hpage hend ⊢
    have hnext : (a + 1) % m.pageSize = a % m.pageSize + 1 := mod_add_one_of_lt (by omega)
    have hmore : ¬((a + 1) % m.pageSize = 0 ∨ d' :: ds ++ rest = []) := by simp [hnext]
    have hbelow : ∀ c ∈ s.pageVals ++ [(a, d)], c.1 < a + 1 := by
      simpa [or_imp, forall_and] using fun c b hc => Nat.lt_succ_of_lt (hpv (c, b) hc)
    have hcount (n : Nat) : n + 1 + (ds.length + 1) = n + (ds.length + 1 + 1) := by omega
    have hlast : q + 1 + ds.length = q + (ds.length + 1) := by omega
    rw [pagedLoop_load rn hload ha total _ hpv hfirst]
    simp only [if_neg hmore]
    rw [List.cons_append, ih (a := a + 1) (by omega) d' hbelow (by omega) (by rwa [hcount])
      ((State.carries_withRegs ..).2 hlater), pageBase_succ (by omega), hcount, hlast, loadItems_cons m a,
      State.afterItems_cons, State.afterItems_withRegs, pageCells_cons a]
    simp

end

/-! ### A page is committed and completed (R290, R291) -/

/-- How a page is completed, by the byte it is polled at (R291). -/
def completePage (rn : RegionName) (m : Region) (polled : Option (Byte × Nat)) (s : State) : Run Unit :=
  match polled with
  | none => delay m.maxWriteDelayUs s
  | some x => poll rn m x.2 x.1 s

section
variable {s : State} (rn : RegionName) {m : Region} {a : Nat} {ds : List Byte}

/-- A page is committed and completed, and `page_vals` is emptied. -/
theorem flushPage_eq (hpage : (regionOp m .writepage).isSome) (hpv : s.pageVals = pageCells a ds)
    (h : s.Carries m [pageItem m a]) :
    flushPage rn m (pageBase m a) s = (completePage rn m (polledByte a ds) (s.afterItem m (pageItem m a))).bind
      fun _ t => .done () (t.withRegs t.fsm t.pollTries t.cursor []) := by
  have hhighest : Memory.highestNotErased (s.afterItem m (pageItem m a)).pageVals = (polledByte a ds).map Prod.swap := by
    rw [State.afterItem_pageVals, hpv, highestNotErased_pageCells]
  rw [flushPage, pageBase, withOp_send_done rn hpage h, Run.bind_done, ← pageCmd, ← pageItem, hhighest]
  cases polledByte a ds with
  | none => rfl
  | some x => rfl

/-- By the maximum delay, or by the poll of the highest byte that is not 0xFF (R291). -/
theorem completePage_done (hread : ∀ a, (regionOp m (sel m .read a)).isSome) {k : Nat} (hk : k < s.cfg.params.pollBound)
    (h : s.Carries m (completionItems m a ds k)) :
    completePage rn m (polledByte a ds) s
      = .done () ((s.afterItems m (completionItems m a ds k)).withRegs s.fsm (triesAfterPages m a [(ds, k)] s.pollTries)
          s.cursor s.pageVals) := by
  simp only [completionItems, triesAfterPages] at h ⊢
  cases hp : polledByte a ds with
  | none =>
    simp only [hp] at h ⊢
    rw [completePage, delay_done h]
    exact congrArg _ (s.afterItems_regs m [.wait m.maxWriteDelayUs])
  | some x =>
    simp only [hp] at h ⊢
    cases hd : m.pollSentinels.contains x.1 with
    | true =>
      simp only [hd, if_true] at h ⊢
      rw [completePage, poll_sentinel rn hd h]
      exact congrArg _ (s.afterItems_regs m [.wait m.maxWriteDelayUs])
    | false =>
      simp only [hd, Bool.false_eq_true, if_false] at h ⊢
      rw [completePage, poll_matched rn (hread _) hd hk h]

/-- A page whose completion is established. -/
theorem flushPage_done (hread : ∀ a, (regionOp m (sel m .read a)).isSome) (hpage : (regionOp m .writepage).isSome)
    (hpv : s.pageVals = pageCells a ds) {k : Nat} (hk : k < s.cfg.params.pollBound)
    (h : s.Carries m (pageItem m a :: completionItems m a ds k)) :
    flushPage rn m (pageBase m a) s
      = .done () ((s.afterItems m (pageItem m a :: completionItems m a ds k)).withRegs s.fsm
          (triesAfterPages m a [(ds, k)] s.pollTries) s.cursor []) := by
  obtain ⟨hcommit, hcompletion⟩ := carries_cons.1 h
  rw [flushPage_eq rn hpage hpv hcommit, completePage_done rn hread (by simpa using hk) hcompletion]
  simp

/-- A page whose poll times out: `page_vals` is left to the error (R333). -/
theorem flushPage_timesOut (hread : ∀ a, (regionOp m (sel m .read a)).isSome) (hpage : (regionOp m .writepage).isSome)
    (hpv : s.pageVals = pageCells a ds) {v : Byte} {pa n : Nat} (hpolled : polledByte a ds = some (v, pa))
    (hv : v ∉ m.pollSentinels) (hn : s.cfg.params.pollBound = n + 1)
    (h : s.Carries m (pageItem m a :: (pollBefore m pa v n ++ [.readBack pa v false]))) :
    flushPage rn m (pageBase m a) s
      = .raised (.pollTimeout rn pa v (readOut m pa ((s.afterItems m (pageItem m a :: pollBefore m pa v n)).answer m pa)))
        ((s.afterItems m (pageItem m a :: (pollBefore m pa v n ++ [.readBack pa v false]))).withRegs s.fsm (n + 1)
          s.cursor s.pageVals) := by
  obtain ⟨hcommit, hpoll⟩ := carries_cons.1 h
  rw [flushPage_eq rn hpage hpv hcommit, hpolled, completePage,
    poll_timesOut rn (hread pa) (by simpa using hv) (by simpa using hn) hpoll]
  simp

end

/-! ### The loop of `write_memory` on a paged region (R290, R293) -/

theorem cutAtPages_cons {p a : Nat} {ds : List Byte} {rest : List (List Byte)} :
    cutAtPages p a (ds :: rest) = true ↔ ds ≠ [] ∧ a % p + ds.length ≤ p ∧ (rest = [] ∨ (a + ds.length) % p = 0)
      ∧ cutAtPages p (a + ds.length) rest = true := by
  simp [cutAtPages, and_assoc]

section
variable (rn : RegionName) {m : Region} (hread : ∀ a, (regionOp m (sel m .read a)).isSome)
  (hload : ∀ a, (regionOp m (sel m .loadpage a)).isSome) (hpage : (regionOp m .writepage).isSome)
include hread hload hpage

section
variable {s : State} {start q a : Nat} (ha : start + q = a) (total : Nat) {d : Byte} {ds : List Byte} (rest : List Byte)
  (hpv : s.pageVals = []) (hlen : a % m.pageSize + (d :: ds).length ≤ m.pageSize)
  (hend : rest = [] ∨ (a + (d :: ds).length) % m.pageSize = 0)
include ha hpv hlen hend

/-- A part in one page is loaded, committed and completed. -/
theorem pagedLoop_part {k : Nat} (hk : k < s.cfg.params.pollBound)
    (h : s.Carries m (loadItems m a (d :: ds) ++ pageItem m a :: completionItems m a (d :: ds) k)) :
    pagedLoop rn m start total (d :: (ds ++ rest)) q s
      = pagedLoop rn m start total rest (q + (d :: ds).length)
          (((s.afterItems m (loadItems m a (d :: ds) ++ pageItem m a :: completionItems m a (d :: ds) k)).withRegs s.fsm
            (triesAfterPages m a [(d :: ds, k)] s.pollTries) (q + ds.length) []).emit
              (.progress (q + (d :: ds).length) total)) := by
  obtain ⟨hloads, hflush⟩ := carries_append.1 h
  rw [pagedLoop_page rn hload ha total d ds rest (by simp [hpv]) hlen hend hloads,
    flushPage_done rn hread hpage (by simp [hpv]) (by simpa using hk) ((State.carries_withRegs ..).2 hflush),
    Run.bind_done]
  simp

/-- A part in one page is loaded and committed, and times out. -/
theorem pagedLoop_part_timesOut {v : Byte} {pa n : Nat} (hpolled : polledByte a (d :: ds) = some (v, pa))
    (hv : v ∉ m.pollSentinels) (hn : s.cfg.params.pollBound = n + 1) {tried : List WireItem}
    (htried : tried = loadItems m a (d :: ds) ++ pageItem m a :: pollBefore m pa v n)
    (h : s.Carries m (tried ++ [.readBack pa v false])) :
    ∃ c pv, pagedLoop rn m start total (d :: (ds ++ rest)) q s
      = .raised (.pollTimeout rn pa v (readOut m pa ((s.afterItems m tried).answer m pa)))
        ((s.afterItems m (tried ++ [.readBack pa v false])).withRegs s.fsm (n + 1) c pv) := by
  rw [htried, List.append_assoc, List.cons_append] at h
  obtain ⟨hloads, hflush⟩ := carries_append.1 h
  refine ⟨q + ds.length, pageCells a (d :: ds), ?_⟩
  rw [pagedLoop_page rn hload ha total d ds rest (by simp [hpv]) hlen hend hloads,
    flushPage_timesOut rn hread hpage (by simp [hpv]) hpolled hv (by simpa using hn)
      ((State.carries_withRegs ..).2 hflush), Run.bind_raised]
  simp [htried, hpv]

end

/-- The parts in one page each that are written come before the other bytes, and leave the state of their items, progress
events aside. -/
theorem pagedLoop_append {s : State} {start q a : Nat} (ha : start + q = a) (total : Nat) (parts : List (List Byte × Nat))
    {more : List (List Byte)} {rest : List Byte} (hcut : cutAtPages m.pageSize a (parts.map Prod.fst ++ more) = true)
    (hmore : rest = [] ∨ more ≠ []) (hk : ∀ p ∈ parts, p.2 < s.cfg.params.pollBound) (hpv : s.pageVals = [])
    (h : s.Carries m (pagesItems m a parts)) :
    ∃ t c, pagedLoop rn m start total ((parts.map Prod.fst).flatten ++ rest) q s
        = pagedLoop rn m start total rest (q + (parts.map Prod.fst).flatten.length) t
      ∧ t.quiet = ((s.afterItems m (pagesItems m a parts)).withRegs s.fsm (triesAfterPages m a parts s.pollTries) c
          []).quiet
      ∧ cutAtPages m.pageSize (a + (parts.map Prod.fst).flatten.length) more = true := by
  induction parts generalizing q a s with
  | nil => exact ⟨s, s.cursor, rfl, by rw [← hpv]; rfl, hcut⟩
  | cons p parts ih =>
    obtain ⟨ds, k⟩ := p
    obtain ⟨hne, hlen, hend, hcut⟩ := cutAtPages_cons.1 hcut
    obtain ⟨d, ds, rfl⟩ := List.exists_cons_of_ne_nil hne
    obtain ⟨hpart, hlater⟩ := carries_append.1 h
    have hend : (parts.map Prod.fst).flatten ++ rest = [] ∨ (a + (d :: ds).length) % m.pageSize = 0 := by
      refine hend.imp_left fun hlast => ?_
      obtain ⟨hparts, hmore'⟩ := List.append_eq_nil_iff.1 hlast
      simp [List.map_eq_nil_iff.1 hparts, hmore.resolve_right (not_not_intro hmore')]
    have hpart := pagedLoop_part rn hread hload hpage ha total _ hpv hlen hend (hk _ List.mem_cons_self) hpart
    obtain ⟨t, c, hloop, ht, hcut⟩ := ih (q := q + (d :: ds).length) (a := a + (d :: ds).length)
      (s := ((s.afterItems m (loadItems m a (d :: ds) ++ pageItem m a :: completionItems m a (d :: ds) k)).withRegs s.fsm
        (triesAfterPages m a [(d :: ds, k)] s.pollTries) (q + ds.length) []).emit (.progress (q + (d :: ds).length) total))
      (by omega) hcut (by simpa using fun x y hx => hk (x, y) (List.mem_cons_of_mem _ hx)) rfl
      (carries_of_quiet (State.quiet_progress ..) m hlater)
    have hlength : ((((d :: ds, k) :: parts).map Prod.fst).flatten).length
        = (d :: ds).length + (parts.map Prod.fst).flatten.length := by simp [Nat.add_right_comm]
    refine ⟨t, c, ?_, ?_, ?_⟩
    · rw [hlength, ← Nat.add_assoc, ← hloop, ← hpart]
      simp
    · rw [ht]
      simp [pagesItems, triesAfterPages]
    · rwa [hlength, ← Nat.add_assoc]

end

/-! ### The obligation -/

section
variable {s : State} (rn : RegionName) {m : Region} (start : Nat) {parts : List (List Byte × Nat)}
  (hpaged : paged m = true) (hops : undefinedRegionOp? rn m (writeNeeds m) = none)
  (hk : ∀ p ∈ parts, p.2 < s.cfg.params.pollBound)
include hpaged hops hk

/-- The parts that are written come before the other bytes. -/
theorem writeRun_parts {more : List (List Byte)} {rest : List Byte}
    (hcut : cutAtPages m.pageSize start (parts.map Prod.fst ++ more) = true) (hmore : rest = [] ∨ more ≠ [])
    (h : s.startCall.Carries m (pagesItems m start parts)) :
    ∃ t c, writeRun rn m start ((parts.map Prod.fst).flatten ++ rest) s
        = pagedLoop rn m start ((parts.map Prod.fst).flatten ++ rest).length rest (parts.map Prod.fst).flatten.length t
      ∧ t.quiet = ((s.startCall.afterItems m (pagesItems m start parts)).withRegs .writing
          (triesAfterPages m start parts s.pollTries) c []).quiet
      ∧ cutAtPages m.pageSize (start + (parts.map Prod.fst).flatten.length) more = true := by
  obtain ⟨hread, hneeds, -⟩ := writeNeeds_defined hops
  obtain ⟨hload, hpage⟩ := hneeds hpaged
  have hloop := pagedLoop_append (s := s.startCall.withRegs .writing s.pollTries s.cursor []) (q := 0) rn hread hload hpage
    (Nat.add_zero start) ((parts.map Prod.fst).flatten ++ rest).length parts hcut hmore hk rfl (by simpa using h)
  rw [writeRun, if_pos hpaged]
  simpa using hloop

/-- The next part times out. -/
theorem writeRun_part_timesOut {ds : List Byte} (rest : List Byte) {v : Byte} {pa n a : Nat}
    (ha : start + (parts.map Prod.fst).flatten.length = a)
    (hcut : cutAtPages m.pageSize start (parts.map Prod.fst ++ [ds]) = true) (hpolled : polledByte a ds = some (v, pa))
    (hv : v ∉ m.pollSentinels) (hn : s.cfg.params.pollBound = n + 1)
    (hend : rest = [] ∨ (a + ds.length) % m.pageSize = 0) {last : List WireItem}
    (hlast : last = loadItems m a ds ++ pageItem m a :: pollBefore m pa v n)
    (h : s.startCall.Carries m (pagesItems m start parts ++ (last ++ [.readBack pa v false]))) :
    ∃ t c pv, writeRun rn m start ((parts.map Prod.fst).flatten ++ (ds ++ rest)) s
        = .raised (.pollTimeout rn pa v
            (readOut m pa ((s.startCall.afterItems m (pagesItems m start parts ++ last)).answer m pa))) t
      ∧ t.quiet = ((s.startCall.afterItems m (pagesItems m start parts ++ (last ++ [.readBack pa v false]))).withRegs
          .writing (n + 1) c pv).quiet := by
  obtain ⟨hread, hneeds, -⟩ := writeNeeds_defined hops
  obtain ⟨hload, hpage⟩ := hneeds hpaged
  obtain ⟨hbefore, hpart⟩ := carries_append.1 h
  obtain ⟨t, c, hrun, ht, hcut⟩ := writeRun_parts rn start hpaged hops hk hcut (rest := ds ++ rest) (.inr (by simp)) hbefore
  rw [ha] at hcut
  obtain ⟨hne, hlen, -, -⟩ := cutAtPages_cons.1 hcut
  obtain ⟨d, ds, rfl⟩ := List.exists_cons_of_ne_nil hne
  have hbound : t.cfg.params.pollBound = n + 1 := by simpa [cfg_of_quiet ht, State.startCall] using hn
  obtain ⟨hfsm, -, -, hempty⟩ := regs_of_quiet ht
  obtain ⟨c', pv, hraised⟩ := pagedLoop_part_timesOut rn hread hload hpage ha
    ((parts.map Prod.fst).flatten ++ (d :: ds ++ rest)).length rest hempty hlen hend hpolled hv hbound hlast
    (carries_of_quiet ht m hpart)
  rw [hfsm, ← List.cons_append] at hraised
  rw [State.afterItems_append, State.afterItems_append]
  refine ⟨_, c', pv, ?_, afterItems_of_quiet ht m _ .writing (n + 1) c' pv⟩
  rw [hrun, hraised, answer_afterItems_of_quiet ht]

end

/-- Settles O50: the loop goes through the parts that are written, page by page, and ends there or with the time-out of the
next page. -/
theorem pagedWriteLoadsCommitsAndPolls : Obligations.PagedWriteLoadsCommitsAndPolls := by
  intro s rn m start parts hf hm hpaged hops hk s₀ items loaded u
  refine ⟨?done, ?timesOut⟩
  case done =>
    intro hcut hsize hok hans
    obtain ⟨t, c, hrun, ht, -⟩ := writeRun_parts rn start hpaged hops hk (more := []) (by rwa [List.append_nil]) (.inl rfl)
      ⟨hok, hans⟩
    rw [List.append_nil] at hrun
    obtain ⟨t', hcall, hresults, hevents, hstate⟩ := writeMemory_ok hf hm hsize hops ht hrun
    have hc : t'.cursor = c := congrArg State.cursor hstate
    exact ⟨t', hcall, hresults, hevents, by rw [hc]; exact hstate⟩
  case timesOut =>
    intro ds rest v pa n hcut hpolled hv hn hend hsize a tried u' hok hans
    have htried : tried = items ++ (loadItems m a ds ++ pageItem m a :: pollBefore m pa v n) := by
      simp [tried, pollBefore]
    have hcarries : s.startCall.Carries m (tried ++ [.readBack pa v false]) := ⟨hok, hans⟩
    rw [htried, List.append_assoc] at hcarries
    obtain ⟨t, c, pv, hrun, ht⟩ := writeRun_part_timesOut rn start hpaged hops hk rest rfl hcut hpolled hv hn hend rfl
      hcarries
    rw [← htried] at hrun
    rw [← List.append_assoc, ← htried] at ht
    obtain ⟨t', hcall, hresults, hevents, hstate⟩ := writeMemory_pollTimeout hf hm (by simpa [loaded] using hsize) hops ht hrun
    have hc : t'.cursor = c := congrArg State.cursor hstate
    exact ⟨t', hcall, hresults, hevents, by rw [hc]; exact hstate⟩

end Sys2Proof.Machine
end

section
/-! PROOFS. What a reference target answers to a command (20_memory.md R71): its response one byte later (41_spi_engine.md
R155), and the echo out of phase (70_reset_and_hazards.md R376). -/

namespace Sys2Proof

/-! ### The 32 bit times of a command (R63, R65) -/

/-- The bit of a command, or of a response, at bit time `n`: bytes in index order, most significant bit first. -/
def Cmd.wireBit (c : Cmd) (n : Nat) : Bool := (c.byte (Fin.ofNat 4 (n / 8))).getLsbD (7 - n % 8)

/-- Bit `j` of byte `i` is on the wire at bit time `8 i + (7 - j)`. -/
theorem Cmd.wireBit_byte (c : Cmd) (i : Fin 4) {j : Nat} (hj : j < 8) :
    c.wireBit (8 * i + (7 - j)) = (c.byte i).getLsbD j := by
  have hdiv : (8 * i + (7 - j)) / 8 = (i : Nat) := by omega
  have hmod : 7 - (8 * i + (7 - j)) % 8 = j := by omega
  rw [Cmd.wireBit, hdiv, hmod, Fin.ofNat_val_eq_self]

/-- A byte is known by its 8 bit times. -/
theorem Cmd.byte_eq_of_wireBit {c : Cmd} {i : Fin 4} {b : Byte}
    (h : ∀ j < 8, c.wireBit (8 * i + (7 - j)) = b.getLsbD j) : c.byte i = b :=
  BitVec.eq_of_getLsbD_eq fun j hj => by rw [← c.wireBit_byte i hj, h j hj]

end Sys2Proof

namespace Sys2Proof.Machine

/-! ### A command that is done (R136, R151) -/

/-- Of the next `n` transport calls none fails, or there is a first one that does. -/
theorem State.noFault_or_faultAt (s : State) (n : Nat) : s.NoFault n ∨ ∃ k < n, ∃ e, s.FaultAt k e := by
  induction n with
  | zero => exact .inl fun k hk => absurd hk k.not_lt_zero
  | succ n ih =>
    obtain hok | ⟨k, hk, hfault⟩ := ih
    · cases hn : s.faultAt n with
      | none => exact .inl fun k hk => (Nat.lt_succ_iff_lt_or_eq.1 hk).elim (hok k) fun h => h ▸ hn
      | some e => exact .inr ⟨n, n.lt_succ_self, e, hok, hn⟩
    · exact .inr ⟨k, hk.trans n.lt_succ_self, hfault⟩

/-- A command that is done traced its own events: had one of its calls failed, it would have raised the error. -/
theorem newEvents_of_transmitCmd_done {s t : State} {c r : Cmd} (h : transmitCmd c s = .done r t) :
    newEvents s t = cmdEvents c r := by
  obtain hok | ⟨k, hk, e, hfault⟩ := s.noFault_or_faultAt 96
  · rw [transmitCmd_done c hok] at h
    cases h
    simp [newEvents, State.afterCmd]
  · obtain ⟨g, v, hraised⟩ := transmitCmd_failsAt hfault hk c
    rw [hraised] at h
    cases h

/-- The events of a bit time that sends `b` and samples `v` (R150). -/
def bitTimeEvents (b v : Bool) : List Event := [.get .sdi v, .set .sdo b, .pulse .sck]

theorem byteEvents_eq_bitTimes (c r : Cmd) (i : Fin 4) :
    byteEvents (c.byte i) (r.byte i)
      = (List.range' (8 * i) 8).flatMap fun n => bitTimeEvents (c.wireBit n) (r.wireBit n) := by
  have hbits : List.range' (8 * i) 8 = [7, 6, 5, 4, 3, 2, 1, 0].map fun j : Nat => 8 * (i : Nat) + (7 - j) := rfl
  rw [hbits, List.flatMap_map, byteEvents]
  refine List.flatMap_congr fun j hj => ?_
  have hj : j < 8 := by simp at hj; omega
  rw [bitTimeEvents, c.wireBit_byte i hj, r.wireBit_byte i hj]

theorem cmdEvents_eq_bitTimes (c r : Cmd) :
    cmdEvents c r = (List.range' 0 32).flatMap fun n => bitTimeEvents (c.wireBit n) (r.wireBit n) := by
  have hbytes : List.range' 0 32 = List.range' 0 8 ++ List.range' 8 8 ++ List.range' 16 8 ++ List.range' 24 8 := rfl
  have h0 := byteEvents_eq_bitTimes c r 0
  have h1 := byteEvents_eq_bitTimes c r 1
  have h2 := byteEvents_eq_bitTimes c r 2
  have h3 := byteEvents_eq_bitTimes c r 3
  simp only [hbytes, List.flatMap_append]
  exact congr (congrArg _ (congr (congrArg _ (congr (congrArg _ h0) h1)) h2)) h3

/-! ### What a bit time does to a target (R71) -/

namespace Target

/-- A commit writes memory and empties the page buffer. -/
theorem commit_frame (t : Target) (m : RegionName) (base : Nat) (cells : Memory) :
    ∃ mem, t.commit m base cells = { t with mem := mem, pageBuf := [] } := by
  induction cells generalizing t with
  | nil => exact ⟨t.mem, rfl⟩
  | cons cell rest ih => exact ih _

/-- An operation reaches the memory, the page buffer, the address window and the enable flag of a target only. -/
theorem perform_frame (t : Target) (op : TargetOp) :
    ∃ en mem buf ext, t.perform op = { t with enabled := en, mem := mem, pageBuf := buf, extAddr := ext } := by
  cases op with
  | commit m base =>
    obtain ⟨mem, h⟩ := t.commit_frame m base t.pageBuf
    exact ⟨_, _, _, _, h⟩
  | _ => exact ⟨_, _, _, _, rfl⟩

/-- The end of a frame reaches no more than an operation does. -/
theorem frame_frame (t : Target) :
    ∃ en mem buf ext, t.frame = { t with enabled := en, mem := mem, pageBuf := buf, extAddr := ext } := by
  unfold frame
  split
  · split
    · exact ⟨_, _, _, _, rfl⟩
    · exact t.perform_frame _
  · split <;> exact ⟨_, _, _, _, rfl⟩

/-- A target after a bit time in which the block drives `Sdo` to `b`. -/
def bitTime (t : Target) (b : Bool) : Target := { t with cmdBit := (t.cmdBit + 1) % 32, sdo := b }.receive b

/-- A bit time agrees with a target whose `Sck` is idle where its sample is the level presented, and leaves `bitTime`. -/
theorem agrees_bitTimeEvents {t : Target} (hidle : t.taken = none) (b v : Bool) (rest : List Event) :
    t.agrees (bitTimeEvents b v ++ rest) = (v == t.level && (t.bitTime b).agrees rest) := by
  obtain ⟨⟩ := t
  subst hidle
  simp [bitTimeEvents, agrees, sees, clock, bitTime]

/-- A bit received before the last of a frame is shifted in and counted. -/
theorem bitTime_inFrame {t : Target} (h : t.count ≠ 31) (b : Bool) :
    t.bitTime b = { t with cmdBit := (t.cmdBit + 1) % 32, sdo := b, count := t.count + 1,
                           bits := t.bits <<< 1 ||| BitVec.zeroExtend 32 (BitVec.ofBool b) } := by
  simp [bitTime, receive, h]

/-- Every bit is shifted in and counted; the end of a frame may change what an operation reaches. -/
theorem bitTime_frame (t : Target) (b : Bool) :
    ∃ en mem buf ext, t.bitTime b
      = { t with cmdBit := (t.cmdBit + 1) % 32, sdo := b, count := if t.count = 31 then 0 else t.count + 1,
                 bits := t.bits <<< 1 ||| BitVec.zeroExtend 32 (BitVec.ofBool b),
                 enabled := en, mem := mem, pageBuf := buf, extAddr := ext } := by
  by_cases h : t.count = 31
  · simpa [bitTime, receive, h] using frame_frame _
  · exact ⟨_, _, _, _, by rw [bitTime_inFrame h, if_neg h]⟩

@[simp] theorem bitTime_gated (t : Target) (b : Bool) : (t.bitTime b).gated = t.gated := by
  obtain ⟨_, _, _, _, h⟩ := t.bitTime_frame b
  rw [h]

@[simp] theorem bitTime_taken (t : Target) (b : Bool) : (t.bitTime b).taken = t.taken := by
  obtain ⟨_, _, _, _, h⟩ := t.bitTime_frame b
  rw [h]

@[simp] theorem bitTime_cmdBit (t : Target) (b : Bool) : (t.bitTime b).cmdBit = (t.cmdBit + 1) % 32 := by
  obtain ⟨_, _, _, _, h⟩ := t.bitTime_frame b
  rw [h]

theorem bitTime_count {t : Target} (hlt : t.count < 32) (b : Bool) : (t.bitTime b).count = (t.count + 1) % 32 := by
  obtain ⟨_, _, _, _, h⟩ := t.bitTime_frame b
  rw [h]
  by_cases hend : t.count = 31
  · simp [hend]
  · simpa [hend] using (Nat.mod_eq_of_lt (by omega)).symm

/-- The bit received is the latest, and the others move up by one place. -/
theorem bitTime_bits (t : Target) (b : Bool) {k : Nat} (hk : k < 32) :
    (t.bitTime b).bits.getLsbD k = if k = 0 then b else t.bits.getLsbD (k - 1) := by
  obtain ⟨_, _, _, _, h⟩ := t.bitTime_frame b
  rw [h]
  cases k with
  | zero => simp
  | succ k => simp [hk, BitVec.getLsbD_eq_getElem (show k < 32 by omega)]

/-! ### What the bits of a command do to a target (R71) -/

/-- A target after `n` bit times in which the block sends the bits of `c`. -/
def afterBits (t : Target) (c : Cmd) : Nat → Target
  | 0 => t
  | n + 1 => (t.afterBits c n).bitTime (c.wireBit n)

section
variable (t : Target) (c : Cmd) (n : Nat)

@[simp] theorem afterBits_gated : (t.afterBits c n).gated = t.gated := by
  induction n with
  | zero => rfl
  | succ n ih => rw [afterBits, bitTime_gated, ih]

@[simp] theorem afterBits_taken : (t.afterBits c n).taken = t.taken := by
  induction n with
  | zero => rfl
  | succ n ih => rw [afterBits, bitTime_taken, ih]

end

section
variable {t : Target}

/-- The place in the block's command after `n` of its bits. -/
theorem afterBits_cmdBit (h : t.cmdBit = 0) (c : Cmd) (n : Nat) : (t.afterBits c n).cmdBit = n % 32 := by
  induction n with
  | zero => exact h
  | succ n ih => rw [afterBits, bitTime_cmdBit, ih, Nat.mod_add_mod]

/-- The place in the target's frame, which a new frame follows. -/
theorem afterBits_count (h : t.count < 32) (c : Cmd) (n : Nat) : (t.afterBits c n).count = (t.count + n) % 32 := by
  induction n with
  | zero => exact (Nat.mod_eq_of_lt h).symm
  | succ n ih =>
    have hlt : (t.afterBits c n).count < 32 := ih ▸ Nat.mod_lt _ (by decide)
    rw [afterBits, bitTime_count hlt, ih, Nat.mod_add_mod, Nat.add_assoc]

/-- Received bit `k`, counted from the latest, is the bit that the block sent `k + 1` bit times before. -/
theorem afterBits_bits (t : Target) (c : Cmd) {n k : Nat} (hk : k < 32) (hn : k < n) :
    (t.afterBits c n).bits.getLsbD k = c.wireBit (n - 1 - k) := by
  induction n generalizing k with
  | zero => exact absurd hn k.not_lt_zero
  | succ n ih =>
    rw [afterBits, bitTime_bits _ _ hk]
    cases k with
    | zero => rfl
    | succ k =>
      rw [if_neg k.succ_ne_zero, Nat.add_sub_cancel, ih (by omega) (by omega)]
      congr 1
      omega

/-- From the start of a frame, no bit before its last changes what the target answers from. -/
theorem afterBits_inFrame (h : t.count = 0) (c : Cmd) {n : Nat} (hn : n < 32) :
    ∃ cmdBit sdo bits, t.afterBits c n = { t with cmdBit := cmdBit, sdo := sdo, count := n, bits := bits } := by
  induction n with
  | zero => exact ⟨t.cmdBit, t.sdo, t.bits, by rw [afterBits, ← h]⟩
  | succ n ih =>
    obtain ⟨cmdBit, sdo, bits, hframe⟩ := ih (by omega)
    have hlast : (t.afterBits c n).count ≠ 31 := by simp only [hframe]; omega
    refine ⟨(cmdBit + 1) % 32, c.wireBit n, bits <<< 1 ||| BitVec.zeroExtend 32 (BitVec.ofBool (c.wireBit n)), ?_⟩
    rw [afterBits, bitTime_inFrame hlast, hframe]

/-- Where the events of a command agree with a target, each bit of the response is the level presented at its bit time. -/
theorem wireBit_of_agrees (hidle : t.taken = none) {c r : Cmd} (k n : Nat)
    (h : (t.afterBits c k).agrees
      ((List.range' k n).flatMap fun i => bitTimeEvents (c.wireBit i) (r.wireBit i)) = true) :
    ∀ i, k ≤ i → i < k + n → r.wireBit i = (t.afterBits c i).level := by
  induction n generalizing k with
  | zero => intro i _ _; omega
  | succ n ih =>
    rw [List.range'_succ, List.flatMap_cons, agrees_bitTimeEvents (by simpa using hidle), Bool.and_eq_true,
      beq_iff_eq] at h
    obtain ⟨hfirst, hrest⟩ := h
    intro i hki hin
    obtain rfl | hlt := Nat.eq_or_lt_of_le hki
    · exact hfirst
    · exact ih (k + 1) hrest i hlt (by omega)

end

/-! ### A target in phase: the response byte of each slot (R71, R155) -/

/-- A whole byte of the command, at its end or later in its frame, is received as it was sent. -/
theorem received_afterBits {t : Target} (h : t.count = 0) (c : Cmd) (i : Fin 4) {n : Nat} (hi : 8 * (i + 1 : Nat) ≤ n)
    (hn : n < 32) : (t.afterBits c n).received i = c.byte i := by
  obtain ⟨_, _, _, hframe⟩ := afterBits_inFrame h c hn
  have hplace : (t.afterBits c n).count = n := by rw [hframe]
  refine BitVec.eq_of_getLsbD_eq fun j hj => ?_
  rw [received, hplace, BitVec.getLsbD_setWidth, BitVec.getLsbD_ushiftRight,
    afterBits_bits _ _ (by omega) (by omega), ← c.wireBit_byte i hj]
  have hbit : n - 1 - (n - 8 * (i + 1) + j) = 8 * i + (7 - j) := by omega
  simp [hj, hbit]

/-- `R_3` of a command (R71): the memory byte of a READ-class word, which its byte 3 does not change, else its byte 2. -/
def lastByte (t : Target) (c : Cmd) : Byte :=
  match decodeWord t.profile (c.b0 ++ c.b1 ++ c.b2 ++ 0#8) with
  | some i => match targetOp t.extAddr i with
    | .read m a => t.read m a
    | _ => c.b2
  | none => c.b2

/-- In byte 3 of a frame, the target has received what `R_3` is made from, and its memory is as before. -/
theorem answer3_afterBits {t : Target} (h : t.count = 0) (c : Cmd) {n : Nat} (hlo : 24 ≤ n) (hn : n < 32) :
    (t.afterBits c n).answer3 = t.lastByte c := by
  have h0 : (t.afterBits c n).received 0 = c.b0 := received_afterBits h c 0 (by simp; omega) hn
  have h1 : (t.afterBits c n).received 1 = c.b1 := received_afterBits h c 1 (by simp; omega) hn
  have h2 : (t.afterBits c n).received 2 = c.b2 := received_afterBits h c 2 (by simp; omega) hn
  rw [answer3, h0, h1, h2, lastByte]
  obtain ⟨_, _, _, hframe⟩ := afterBits_inFrame h c hn
  rw [hframe]
  cases decodeWord t.profile (c.b0 ++ c.b1 ++ c.b2 ++ 0#8) <;> rfl

/-- The response of a target that honours commands to one it is in phase with (R71). -/
def response (t : Target) (c : Cmd) : Cmd := ⟨0#8, c.b0, c.b1, t.lastByte c⟩

/-- In each slot of a frame, the target's response byte is the one of that index. -/
theorem slotByte_afterBits {t : Target} (hhon : t.honours = true) (hcount : t.count = 0) (c : Cmd) {n : Nat}
    (hn : n < 32) : (t.afterBits c n).slotByte = (t.response c).byte (Fin.ofNat 4 (n / 8)) := by
  obtain ⟨_, _, _, hframe⟩ := afterBits_inFrame hcount c hn
  have hhon' : (t.afterBits c n).honours = true := by rw [hframe]; exact hhon
  have hplace : (t.afterBits c n).count = n := by rw [hframe]
  rw [slotByte, if_pos hhon', hplace]
  obtain h | h | h | h : n / 8 = 0 ∨ n / 8 = 1 ∨ n / 8 = 2 ∨ n / 8 = 3 := by omega
  · rw [h]; rfl
  · rw [h]; exact received_afterBits hcount c 0 (by simp; omega) hn
  · rw [h]; exact received_afterBits hcount c 1 (by simp; omega) hn
  · rw [h]; exact answer3_afterBits hcount c (by omega) hn

/-- In phase, the target presents its response bit by bit. -/
theorem level_inPhase {t : Target} (hhon : t.honours = true) (hidle : t.taken = none) (hcount : t.count = 0)
    (hcmd : t.cmdBit = 0) (c : Cmd) {n : Nat} (hn : n < 32) : (t.afterBits c n).level = (t.response c).wireBit n := by
  have hplace : (t.afterBits c n).count = n := by
    rw [afterBits_count (by omega), hcount, Nat.zero_add, Nat.mod_eq_of_lt hn]
  have hphase : (t.afterBits c n).inPhase = true := by
    simp [inPhase, hidle, afterBits_cmdBit hcmd, hplace, Nat.mod_eq_of_lt hn]
  simp [level, hphase, hplace, slotByte_afterBits hhon hcount c hn, Cmd.wireBit]

/-! ### A target out of phase: every bit 8 clocks later (R71, R376) -/

/-- A plain T0 at another place of its frame is out of phase at every bit of the command, and presents the bit that the
block sent 8 bit times before; that a frame ends on the way changes nothing here. -/
theorem level_outOfPhase {t : Target} (hplain : t.gated = false) (hcmd : t.cmdBit = 0)
    (hpos : 0 < t.count) (hlt : t.count < 32) (c : Cmd) {n : Nat} (hlo : 8 ≤ n) (hn : n < 32) :
    (t.afterBits c n).level = c.wireBit (n - 8) := by
  have hne : (t.count + n) % 32 ≠ n := by omega
  have hphase : (t.afterBits c n).inPhase = false := by
    simp [inPhase, afterBits_cmdBit hcmd, afterBits_count hlt, Nat.mod_eq_of_lt hn, hne]
  have hhon : (t.afterBits c n).honours = true := by simp [honours, hplain]
  rw [level, hhon, hphase]
  exact afterBits_bits t c (by decide) (by omega)

end Target

/-! ### The response of a done command -/

/-- The bits of the response are the levels that a target which answers the exchange presents. -/
theorem wireBit_of_answers {s t : State} {c r : Cmd} {tg : Target} (h : transmitCmd c s = .done r t)
    (hidle : tg.taken = none) (hans : tg.answers (newEvents s t) = true) {n : Nat} (hn : n < 32) :
    r.wireBit n = (({ tg with cmdBit := 0 } : Target).afterBits c n).level := by
  rw [newEvents_of_transmitCmd_done h, cmdEvents_eq_bitTimes] at hans
  exact Target.wireBit_of_agrees (t := { tg with cmdBit := 0 }) hidle 0 32 hans n n.zero_le (by omega)

/-- From the start of a frame, the response is the target's. -/
theorem response_of_answers {s t : State} {c r : Cmd} {tg : Target} (h : transmitCmd c s = .done r t)
    (hhon : tg.honours = true) (hidle : tg.taken = none) (hcount : tg.count = 0)
    (hans : tg.answers (newEvents s t) = true) (i : Fin 4) : r.byte i = (tg.response c).byte i := by
  refine Cmd.byte_eq_of_wireBit fun j hj => ?_
  have hn : 8 * (i : Nat) + (7 - j) < 32 := by omega
  rw [wireBit_of_answers h hidle hans hn, Target.level_inPhase (t := { tg with cmdBit := 0 }) hhon hidle hcount rfl c hn,
    Cmd.wireBit_byte _ i hj]
  rfl

/-- At any other place of a plain T0's frame, each byte of the response from the second on is the byte sent before it. -/
theorem byte_of_answers_outOfPhase {s t : State} {c r : Cmd} {tg : Target} (h : transmitCmd c s = .done r t)
    (hplain : tg.gated = false) (hidle : tg.taken = none) (hpos : 0 < tg.count) (hlt : tg.count < 32)
    (hans : tg.answers (newEvents s t) = true) {i k : Fin 4} (hk : (k : Nat) = i + 1) : r.byte k = c.byte i := by
  refine Cmd.byte_eq_of_wireBit fun j hj => ?_
  have hlate : 8 * (k : Nat) + (7 - j) - 8 = 8 * i + (7 - j) := by omega
  rw [wireBit_of_answers h hidle hans (by omega),
    Target.level_outOfPhase (t := { tg with cmdBit := 0 }) hplain rfl hpos hlt c (by omega) (by omega), hlate,
    Cmd.wireBit_byte _ i hj]

/-- Settles O14: the response of a target in phase, byte by byte, and the echo of one out of phase. -/
theorem referenceTargetEchoesOneByteLater : Obligations.ReferenceTargetEchoesOneByteLater := by
  refine ⟨fun s t c r tg h hhon hstart hans => ?inPhase, fun s t c r tg h hplain hidle hpos hlt hans => ?outOfPhase⟩
  case inPhase =>
    obtain ⟨hidle, hcount⟩ : tg.taken = none ∧ tg.count = 0 := by simpa [Target.atFrameStart] using hstart
    have hbyte : ∀ i, r.byte i = (tg.response c).byte i := response_of_answers h hhon hidle hcount hans
    exact ⟨hbyte 0, hbyte 1, hbyte 2, hbyte 3⟩
  case outOfPhase =>
    have hecho : ∀ {i k : Fin 4}, (k : Nat) = i + 1 → r.byte k = c.byte i :=
      byte_of_answers_outOfPhase h hplain hidle hpos hlt hans
    exact ⟨hecho (i := 0) (k := 1) rfl, hecho (i := 1) (k := 2) rfl, hecho (i := 2) (k := 3) rfl⟩

end Sys2Proof.Machine
end

section
/-! PROOFS. The codec and the opcode map: what `build` places and what is gathered again (43_isp_codec.md R200, R203), that
no two rows of a profile accept one word (30_encoding.md R102), and that the decoder inverts the encoder. -/

namespace Sys2Proof

/-! ### Well-formed templates (R22, R23) -/

theorem noRepeat_iff_nodup {α : Type} [DecidableEq α] {l : List α} : noRepeat l = true ↔ l.Nodup := by
  induction l with
  | nil => simp [noRepeat]
  | cons x xs ih => simp [noRepeat, ih]

/-- What a well-formed template says of its maps: each position in the word is mapped once, and its constant bit is 0. -/
structure Template.PlacesApart (T : Template) : Prop where
  inWord : ∀ e ∈ T.addrMap ++ T.inputMap, e.1 < 32
  constZero : ∀ e ∈ T.addrMap ++ T.inputMap, T.constBits.getLsbD e.1 = false
  addrOnce : (T.addrMap.map Prod.fst).Nodup
  inputOnce : (T.inputMap.map Prod.fst).Nodup
  disjoint : ∀ e ∈ T.addrMap, ∀ e' ∈ T.inputMap, e.1 ≠ e'.1

theorem Template.placesApart {T : Template} (h : T.wf = true) : T.PlacesApart := by
  simp only [Template.wf, Bool.and_eq_true, noRepeat_iff_nodup, ← List.map_append, List.all_map, List.all_eq_true,
    Function.comp_apply, decide_eq_true_eq, Bool.not_eq_true'] at h
  obtain ⟨⟨⟨⟨⟨⟨hword, -⟩, -⟩, honce⟩, hzero⟩, -⟩, -⟩ := h
  rw [List.map_append, List.nodup_append] at honce
  obtain ⟨haddr, hinput, hdisj⟩ := honce
  exact ⟨hword, hzero, haddr, hinput, fun e he e' he' =>
    hdisj _ (List.mem_map_of_mem he) _ (List.mem_map_of_mem he')⟩

/-! ### The bits that `build` places (R200, R203) -/

/-- Where no position is mapped twice, a mapped position is set by its own operand bit. -/
theorem any_of_mem {l : List (Nat × Nat)} (h : (l.map Prod.fst).Nodup) (f : Nat → Bool) {e : Nat × Nat} (he : e ∈ l) :
    (l.any fun x => x.1 == e.1 && f x.2) = f e.2 := by
  rw [Bool.eq_iff_iff, List.any_eq_true]
  refine ⟨fun ⟨x, hx, hbit⟩ => ?_, fun hbit => ⟨e, he, by simpa using hbit⟩⟩
  simp only [Bool.and_eq_true, beq_iff_eq] at hbit
  obtain ⟨hpos, hbit⟩ := hbit
  exact List.inj_on_of_nodup_map h hx he hpos ▸ hbit

theorem any_of_unmapped {l : List (Nat × Nat)} {pos : Nat} (h : ∀ e ∈ l, e.1 ≠ pos) (f : Nat → Bool) :
    (l.any fun x => x.1 == pos && f x.2) = false := by
  rw [List.any_eq_false]
  intro x hx
  simp [h x hx]

section
variable {T : Template} (h : T.wf = true)
include h

theorem getLsbD_buildWord_addr (a : Nat) (input : Option Byte) {e : Nat × Nat} (he : e ∈ T.addrMap) :
    (buildWord T (some a) input).getLsbD e.1 = a.testBit e.2 := by
  have hT := T.placesApart h
  have hpos := hT.inWord e (List.mem_append_left _ he)
  have haddr : (placeBits a.testBit T.addrMap T.constBits).getLsbD e.1 = a.testBit e.2 := by
    rw [getLsbD_placeBits _ _ _ hpos, hT.constZero e (List.mem_append_left _ he), any_of_mem hT.addrOnce _ he,
      Bool.false_or]
  cases input with
  | none => exact haddr
  | some d =>
    rw [buildWord, getLsbD_placeBits _ _ _ hpos, haddr, any_of_unmapped fun x hx => (hT.disjoint e he x hx).symm,
      Bool.or_false]

theorem getLsbD_buildWord_input (addr : Option Nat) (d : Byte) {e : Nat × Nat} (he : e ∈ T.inputMap) :
    (buildWord T addr (some d)).getLsbD e.1 = d.getLsbD e.2 := by
  have hT := T.placesApart h
  have hpos := hT.inWord e (List.mem_append_right _ he)
  have hzero := hT.constZero e (List.mem_append_right _ he)
  cases addr with
  | none => rw [buildWord, getLsbD_placeBits _ _ _ hpos, any_of_mem hT.inputOnce _ he, hzero, Bool.false_or]
  | some a =>
    rw [buildWord, getLsbD_placeBits _ _ _ hpos, any_of_mem hT.inputOnce _ he, getLsbD_placeBits _ _ _ hpos, hzero,
      any_of_unmapped fun x hx => hT.disjoint x hx e he, Bool.false_or, Bool.false_or]

end

theorem getLsbD_buildWord_const {T : Template} (a : Nat) (d : Byte) {pos : Nat} (hpos : pos < 32)
    (hfree : ∀ e ∈ T.addrMap ++ T.inputMap, e.1 ≠ pos) :
    (buildWord T (some a) (some d)).getLsbD pos = T.constBits.getLsbD pos := by
  rw [buildWord, getLsbD_placeBits _ _ _ hpos, getLsbD_placeBits _ _ _ hpos,
    any_of_unmapped fun e he => hfree e (List.mem_append_left _ he),
    any_of_unmapped fun e he => hfree e (List.mem_append_right _ he), Bool.or_false, Bool.or_false]

/-- Settles O5: bit by bit; a command says its word, and so every mapped bit of its operands. -/
theorem buildPlacesMappedBits : Obligations.BuildPlacesMappedBits := by
  intro T a d h
  have haddr (a : Nat) (d : Byte) : ∀ e ∈ T.addrMap, (build T (some a) (some d)).word.getLsbD e.1 = a.testBit e.2 := by
    intro e he
    rw [build, Cmd.word_ofWord, getLsbD_buildWord_addr h a _ he]
  have hinput (a : Nat) (d : Byte) : ∀ e ∈ T.inputMap, (build T (some a) (some d)).word.getLsbD e.1 = d.getLsbD e.2 := by
    intro e he
    rw [build, Cmd.word_ofWord, getLsbD_buildWord_input h _ d he]
  refine ⟨haddr a d, hinput a d, fun pos hpos hfree => ?_, fun a' d' heq => ⟨fun e he => ?_, fun e he => ?_⟩⟩
  · rw [build, Cmd.word_ofWord, getLsbD_buildWord_const a d hpos hfree]
  · rw [← haddr a' d' e he, heq, haddr a d e he]
  · rw [← hinput a' d' e he, heq, hinput a d e he]

/-! ### The bits that the decoder gathers -/

theorem testBit_gatherBits (w : Word) (l : List (Nat × Nat)) (j : Nat) :
    (gatherBits w l).testBit j = l.any fun e => e.2 == j && w.getLsbD e.1 := by
  induction l with
  | nil => simp [gatherBits]
  | cons e rest ih =>
    obtain ⟨pos, k⟩ := e
    rw [gatherBits, Nat.testBit_or, ih, List.any_cons]
    cases w.getLsbD pos with
    | false => simp
    | true => simp [Nat.testBit_two_pow, Bool.beq_eq_decide_eq]

/-- The map carries every 1 of the operand. -/
def MapCarries (l : List (Nat × Nat)) (a : Nat) : Prop := ∀ j, a.testBit j = true → j ∈ l.map Prod.snd

/-- What is gathered by a map, the map carries. -/
theorem mapCarries_gatherBits (w : Word) (l : List (Nat × Nat)) : MapCarries l (gatherBits w l) := by
  intro j hj
  rw [testBit_gatherBits, List.any_eq_true] at hj
  obtain ⟨e, he, hbit⟩ := hj
  simp only [Bool.and_eq_true, beq_iff_eq] at hbit
  obtain ⟨rfl, -⟩ := hbit
  exact List.mem_map_of_mem he

/-- An operand that the map carries is gathered again from a word that holds its bits. -/
theorem gatherBits_eq {w : Word} {l : List (Nat × Nat)} {a : Nat} (hw : ∀ e ∈ l, w.getLsbD e.1 = a.testBit e.2)
    (ha : MapCarries l a) : gatherBits w l = a := by
  refine Nat.eq_of_testBit_eq fun j => ?_
  rw [testBit_gatherBits, Bool.eq_iff_iff, List.any_eq_true]
  refine ⟨fun ⟨e, he, hbit⟩ => ?_, fun hbit => ?_⟩
  · simp only [Bool.and_eq_true, beq_iff_eq] at hbit
    obtain ⟨rfl, hbit⟩ := hbit
    rw [← hw e he, hbit]
  · obtain ⟨e, he, rfl⟩ := List.mem_map.1 (ha j hbit)
    exact ⟨e, he, by simp [hw e he, hbit]⟩

/-- A run of `n` bits from bit `k` on carries the multiples of `2 ^ k` below `2 ^ (k + n)`. -/
theorem mapCarries_mapBits {pos k n a : Nat} : MapCarries (mapBits pos k n) a ↔ a < 2 ^ (k + n) ∧ a % 2 ^ k = 0 := by
  have hmem (j : Nat) : j ∈ (mapBits pos k n).map Prod.snd ↔ k ≤ j ∧ j < k + n := by
    simp only [mapBits, List.map_map, List.mem_map, List.mem_range, Function.comp_apply]
    exact ⟨fun ⟨i, hi, hj⟩ => by omega, fun ⟨hlow, hhigh⟩ => ⟨j - k, by omega, by omega⟩⟩
  simp only [MapCarries, hmem]
  constructor
  · intro h
    refine ⟨Nat.lt_pow_two_of_testBit _ fun j hj => ?_, Nat.eq_of_testBit_eq fun j => ?_⟩
    · exact Bool.eq_false_iff.2 fun hbit => by have := h j hbit; omega
    · rw [Nat.testBit_mod_two_pow, Nat.zero_testBit, Bool.and_eq_false_iff, decide_eq_false_iff_not]
      exact or_iff_not_imp_right.2 fun hbit => by have := h j (Bool.not_eq_false _ ▸ hbit); omega
  · rintro ⟨hlt, hmod⟩ j hbit
    refine ⟨not_lt.1 fun hj => ?_, not_le.1 fun hj => ?_⟩
    · have hzero : (a % 2 ^ k).testBit j = true := by rw [Nat.testBit_mod_two_pow, decide_eq_true hj, hbit]; rfl
      simp [hmod] at hzero
    · rw [Nat.testBit_lt_two_pow (hlt.trans_le (Nat.pow_le_pow_right two_pos hj))] at hbit
      exact nomatch hbit

/-- A row without such bits carries no operand but 0. -/
theorem mapCarries_nil {a : Nat} : MapCarries [] a ↔ a = 0 :=
  ⟨fun h => Nat.eq_of_testBit_eq fun j => by simpa [MapCarries] using h j, fun h => by simp [MapCarries, h]⟩

/-! ### The rows of a profile (R102) -/

/-- A bit that both masks fix and the two patterns fix differently. -/
def Row.apart (r r' : Row) : Prop :=
  (r.template.constBits ^^^ r'.template.constBits) &&& r.mask &&& r'.mask ≠ 0#32

theorem Row.not_accepts_of_apart {r r' : Row} (h : r.apart r') {w : Word} (hr : r.accepts w = true) :
    r'.accepts w ≠ true := by
  intro hr'
  rw [Row.accepts, beq_iff_eq] at hr hr'
  refine h (BitVec.eq_of_getLsbD_eq fun i hi => ?_)
  rw [← hr, ← hr']
  simp only [BitVec.getLsbD_and, BitVec.getLsbD_xor, BitVec.getLsbD_zero]
  cases w.getLsbD i <;> cases r.mask.getLsbD i <;> cases r'.mask.getLsbD i <;> rfl

theorem rows_pairwise_apart (p : Profile) : p.rows.Pairwise Row.apart := by
  cases p with
  | p0 | p1 | p2 => unfold Row.apart; decide

/-- At most one row of a profile accepts a word. -/
theorem row_unique {p : Profile} {w : Word} {r r' : Row} (hr : r ∈ p.rows) (hr' : r' ∈ p.rows)
    (h : r.accepts w = true) (h' : r'.accepts w = true) : r = r' := by
  by_contra hne
  have hsymm : Std.Symm Row.apart := ⟨fun x y hxy => by
    rwa [Row.apart, BitVec.xor_comm, BitVec.and_assoc, BitVec.and_comm y.mask, ← BitVec.and_assoc]⟩
  exact Row.not_accepts_of_apart ((rows_pairwise_apart p).forall hr hr' hne) h h'

/-- Settles O3: two rows that accept one word are one row. -/
theorem rowsOfProfileDoNotOverlap : Obligations.RowsOfProfileDoNotOverlap := by
  intro p w r r' hr hr' h h'
  obtain rfl := row_unique hr hr' h h'
  exact ⟨rfl, rfl⟩

/-- The order of the rows does not matter. -/
theorem decodeWord_eq_some {p : Profile} {w : Word} {i : Instr} :
    decodeWord p w = some i ↔ ∃ r ∈ p.rows, r.accepts w = true ∧ r.read w = i := by
  rw [decodeWord, Option.map_eq_some_iff]
  have haccepts {r : Row} (h : p.rows.find? (fun r => r.accepts w) = some r) : r.accepts w = true :=
    List.find?_some (p := fun r : Row => r.accepts w) h
  refine ⟨fun ⟨r, hfind, hread⟩ => ⟨r, List.mem_of_find?_eq_some hfind, haccepts hfind, hread⟩,
    fun ⟨r, hr, hacc, hread⟩ => ?_⟩
  cases hfind : p.rows.find? fun r => r.accepts w with
  | none => exact absurd hacc (List.find?_eq_none.1 hfind r hr)
  | some r' => exact ⟨r', rfl, row_unique (List.mem_of_find?_eq_some hfind) hr (haccepts hfind) hacc ▸ hread⟩

/-! ### Well-formed instructions (R91, R94, R95) -/

theorem mapCarries_low {pos n a : Nat} : MapCarries (mapBits pos 0 n) a ↔ decide (a < 2 ^ n) = true := by
  rw [mapCarries_mapBits, Nat.zero_add, pow_zero, Nat.mod_one, decide_eq_true_eq, and_iff_left rfl]

theorem mapCarries_multiples {pos k n m a : Nat} (hm : k + n = m) :
    MapCarries (mapBits pos k n) a ↔ (decide (a < 2 ^ m) && a % 2 ^ k == 0) = true := by
  rw [mapCarries_mapBits, hm, Bool.and_eq_true, decide_eq_true_eq, beq_iff_eq]

theorem mapCarries_byte (d : Byte) : MapCarries (mapBits 0 0 8) d.toNat := mapCarries_low.2 (decide_eq_true d.isLt)

/-- An instruction is well-formed exactly where its template's maps carry its operands. -/
theorem Instr.wf_iff (i : Instr) :
    i.wf = true ↔ MapCarries i.template.addrMap (i.addr.getD 0)
      ∧ MapCarries i.template.inputMap (i.input.getD 0#8).toNat := by
  have hnil : MapCarries [] 0 := mapCarries_nil.2 rfl
  cases i with
  | p0PgmEnable | p0ChipErase | p0LfuseRead | p0HfuseRead | p0EfuseRead | p0LockRead | p0CalibrationRead | p2PgmEnable =>
    exact iff_of_true rfl ⟨hnil, hnil⟩
  | p0LfuseWrite d | p0HfuseWrite d | p0EfuseWrite d => exact iff_of_true rfl ⟨hnil, mapCarries_byte d⟩
  | p0LockWrite d => exact mapCarries_low.symm.trans (and_iff_right hnil).symm
  | p0FlashWritepage fa | p1FlashLoadExtAddr fa | p1FlashWritepage fa =>
    exact (mapCarries_multiples (by rfl)).symm.trans (and_iff_left hnil).symm
  | p0FlashReadLo fa | p0FlashReadHi fa | p0EepromRead fa | p0SignatureRead fa | p1FlashReadLo fa | p1FlashReadHi fa
  | p2FlashReadLo fa | p2FlashReadHi fa => exact mapCarries_low.symm.trans (and_iff_left hnil).symm
  | p0FlashLoadpageLo fa d | p0FlashLoadpageHi fa d | p0EepromWrite fa d | p1FlashLoadpageLo fa d
  | p1FlashLoadpageHi fa d | p2FlashWriteLo fa d | p2FlashWriteHi fa d =>
    exact mapCarries_low.symm.trans (and_iff_left (mapCarries_byte d)).symm

/-! ### From rows to instructions and back -/

/-- What a row makes of operands is an instruction of the profile with the row's template and, of those operands, the ones
its pattern has. -/
theorem make_spec {p : Profile} {r : Row} (hr : r ∈ p.rows) (a : Nat) (d : Byte) :
    p ∈ (r.make a d).profiles ∧ (r.make a d).template = r.template
      ∧ ((r.make a d).addr = some a ∨ (r.make a d).addr = none)
      ∧ ((r.make a d).input = some d ∨ (r.make a d).input = none) := by
  cases p with
  | p0 | p1 | p2 =>
    revert r
    simp [Profile.rows, partRowsP0, regionRowsP0, regionRowsP1, partRowsP2, regionRowsP2, Instr.profiles, Instr.template,
      Instr.addr, Instr.input]

/-- In a profile that has the instruction there is a row with its template that makes it of its operands. -/
theorem exists_row {p : Profile} {i : Instr} (hp : p ∈ i.profiles) :
    ∃ r ∈ p.rows, r.template = i.template ∧ r.make (i.addr.getD 0) (i.input.getD 0#8) = i := by
  cases i with
  | p0PgmEnable =>
    simp only [Instr.profiles, List.mem_cons, List.not_mem_nil, or_false] at hp
    obtain rfl | rfl := hp <;> exact ⟨_, .head _, rfl, rfl⟩
  | p0ChipErase =>
    simp only [Instr.profiles, List.mem_cons, List.not_mem_nil, or_false] at hp
    obtain rfl | rfl | rfl := hp <;> exact ⟨_, .tail _ (.head _), rfl, rfl⟩
  | _ =>
    obtain rfl := List.mem_singleton.1 hp
    simp [Profile.rows, partRowsP0, regionRowsP0, regionRowsP1, partRowsP2, regionRowsP2, Instr.template,
      Instr.addr, Instr.input]

/-- Every row's template is well-formed, its mask fixes its constant bits and no operand position, and it has operand
positions only where its instructions have the operand. -/
theorem row_spec {p : Profile} {r : Row} (hr : r ∈ p.rows) :
    r.template.wf = true ∧ r.template.constBits &&& r.mask = r.template.constBits
      ∧ maskFree r.mask r.template.addrMap = true ∧ maskFree r.mask r.template.inputMap = true := by
  cases p with
  | p0 | p1 | p2 => revert r; decide

/-- An instruction without an operand has a template without positions for it. -/
theorem Instr.maps_of_none (i : Instr) :
    (i.addr = none → i.template.addrMap = []) ∧ (i.input = none → i.template.inputMap = []) := by
  cases i with
  | _ => exact ⟨fun h => by cases h <;> rfl, fun h => by cases h <;> rfl⟩

/-! ### The decoder inverts the encoder (R102) -/

/-- The operands of a well-formed instruction are gathered again from its word. -/
theorem gatherBits_encode {i : Instr} (hT : i.template.wf = true) (hi : i.wf = true) :
    gatherBits (buildWord i.template i.addr i.input) i.template.addrMap = i.addr.getD 0
      ∧ gatherBits (buildWord i.template i.addr i.input) i.template.inputMap = (i.input.getD 0#8).toNat := by
  obtain ⟨haddr, hinput⟩ := i.wf_iff.1 hi
  obtain ⟨hnoAddr, hnoInput⟩ := i.maps_of_none
  constructor
  · cases ha : i.addr with
    | none => rw [hnoAddr ha]; rfl
    | some a =>
      rw [ha] at haddr
      exact gatherBits_eq (fun e he => getLsbD_buildWord_addr hT a _ he) haddr
  · cases hd : i.input with
    | none => rw [hnoInput hd]; rfl
    | some d =>
      rw [hd] at hinput
      exact gatherBits_eq (fun e he => getLsbD_buildWord_input hT _ d he) hinput

/-- Settles O1: the row with the instruction's template accepts its word and gathers its operands. -/
theorem decodeReadsEncodedInstruction : Obligations.DecodeReadsEncodedInstruction := by
  intro p i hp hi
  obtain ⟨r, hr, htemplate, hmake⟩ := exists_row hp
  obtain ⟨hT, hconst, haddr, hinput⟩ := row_spec hr
  have haccepts := r.accepts_build i.addr i.input hconst haddr hinput
  rw [htemplate] at hT haccepts
  obtain ⟨hga, hgi⟩ := gatherBits_encode hT hi
  rw [encode, build, decode_bytes_ofWord, decodeWord_eq_some]
  refine ⟨r, hr, haccepts, ?_⟩
  rw [Row.read, htemplate, hga, hgi, BitVec.ofNat_toNat, BitVec.setWidth_eq, hmake]

/-- The decoder reads four bytes. -/
theorem decode_eq_ok {p : Profile} {bs : List Byte} {i : Instr} (h : decode p bs = .ok i) :
    bs.length = 4 ∧ ∃ w, decodeWord p w = some i := by
  unfold decode at h
  split at h
  · split at h
    · cases h; exact ⟨rfl, _, ‹_›⟩
    · cases h
  · cases h

/-- What a row of the profile reads is an instruction of it, with the operands that its template carries. -/
theorem read_wf {p : Profile} {r : Row} (hr : r ∈ p.rows) (w : Word) :
    p ∈ (r.read w).profiles ∧ (r.read w).wf = true := by
  obtain ⟨hp, htemplate, haddr, hinput⟩ :=
    make_spec hr (gatherBits w r.template.addrMap) (BitVec.ofNat 8 (gatherBits w r.template.inputMap))
  refine ⟨hp, (Instr.wf_iff _).2 ⟨?_, ?_⟩⟩
  · rw [Row.read, htemplate]
    rcases haddr with h | h <;> rw [h]
    · exact mapCarries_gatherBits w _
    · exact fun j hj => by simp at hj
  · rw [Row.read, htemplate]
    rcases hinput with h | h <;> rw [h]
    · refine fun j hj => mapCarries_gatherBits w _ j ?_
      rw [Option.getD_some, BitVec.toNat_ofNat, Nat.testBit_mod_two_pow, Bool.and_eq_true] at hj
      exact hj.2
    · exact fun j hj => by simp at hj

/-- Settles O2: the row that accepts the word reads such an instruction. -/
theorem decodedInstructionIsWellFormed : Obligations.DecodedInstructionIsWellFormed := by
  intro p bs i h
  obtain ⟨hlen, w, hw⟩ := decode_eq_ok h
  obtain ⟨r, hr, -, rfl⟩ := decodeWord_eq_some.1 hw
  exact ⟨hlen, read_wf hr w⟩

/-- Settles O4: the decoder is run on each of the nine words. -/
theorem wordsOfPartThreeDecode : Obligations.WordsOfPartThreeDecode :=
  ⟨rfl, rfl, rfl, rfl, rfl, rfl, rfl, rfl, rfl⟩

end Sys2Proof
end

section
/-! PROOFS. What an exchange that is done says of its events: the SPI exchange and its clock counts (41_spi_engine.md R150 to
R153), and the loopback law (R154). -/

namespace Sys2Proof.Machine

/-! ### The events of an exchange that is done (R136, R150) -/

/-- A byte one of whose 24 calls fails raises the error. -/
theorem transmitByte_failsAt {s : State} {k e : Nat} (h : s.FaultAt k e) (hk : k < 24) (b : Byte) :
    FailsAt s k e ((byteEvents b (s.byteAt 0)).take k) (transmitByte b s) := by
  have hbits := transmitBits_failsAt h b [7, 6, 5, 4, 3, 2, 1, 0] (n := 0) k.zero_le (by simpa using hk) 0#8 0 s.lvlSdo []
  rwa [State.exchanged_zero, ← byteEvents_byteAt] at hbits

/-- A byte that is done traced its own events: had one of its calls failed, it would have raised the error. -/
theorem newEvents_of_transmitByte_done {s t : State} {b r : Byte} (h : transmitByte b s = .done r t) :
    newEvents s t = byteEvents b r := by
  obtain hok | ⟨k, hk, e, hfault⟩ := s.noFault_or_faultAt 24
  · rw [transmitByte_done b hok] at h
    cases h
    simp [newEvents, State.afterByte]
  · obtain ⟨g, v, hraised⟩ := transmitByte_failsAt hfault hk b
    rw [hraised] at h
    cases h

/-- Settles O11: the exchange of one command that starts in the state itself. -/
theorem transmitCmdExchange : Obligations.TransmitCmdExchange := fun _ c h => transmitCmd_done c h

/-! ### Clock counts (R153) -/

/-- What every byte's events hold `n` times, a command's hold `4 n` times. -/
theorem countP_cmdEvents {p : Event → Bool} {n : Nat} (h : ∀ b r, (byteEvents b r).countP p = n) (c r : Cmd) :
    (cmdEvents c r).countP p = 4 * n := by
  simp only [cmdEvents, List.countP_append, h]
  omega

/-- Settles O12: the events are those of the bytes, each of which holds 8 pulses, 8 samples and 8 drives. -/
theorem exchangeClockCounts : Obligations.ExchangeClockCounts := by
  refine ⟨fun s t b r h => ?byte, fun s t c r h => ?cmd⟩
  case byte =>
    rw [newEvents_of_transmitByte_done h]
    exact ⟨rfl, rfl, rfl, rfl⟩
  case cmd =>
    rw [newEvents_of_transmitCmd_done h]
    exact ⟨rfl, countP_cmdEvents (p := (· == .pulse .sck)) (n := 8) (fun _ _ => rfl) c r,
      countP_cmdEvents (n := 8) (fun _ _ => rfl) c r, countP_cmdEvents (n := 8) (fun _ _ => rfl) c r⟩

/-! ### The loopback law (R154) -/

/-- A byte is another delayed by one bit position where its bits are that one's next, and its first is the level before. -/
theorem eq_delayedByOne_iff {l : Bool} {b r : Byte} :
    r = delayedByOne l b ↔ r.getLsbD 7 = l ∧ ∀ i < 7, r.getLsbD i = b.getLsbD (i + 1) := by
  have hbit (i : Nat) (hi : i < 8) : (delayedByOne l b).getLsbD i = if i = 7 then l else b.getLsbD (i + 1) := by
    cases l <;> interval_cases i <;> simp [delayedByOne]
  constructor
  · rintro rfl
    exact ⟨hbit 7 (by decide), fun i hi => (hbit i (by omega)).trans (if_neg hi.ne)⟩
  · rintro ⟨hfirst, hnext⟩
    refine BitVec.eq_of_getLsbD_eq fun i hi => ?_
    rw [hbit i hi]
    split
    · next h7 => rw [h7, hfirst]
    · next h7 => exact hnext i (by omega)

/-- On a loopback a byte's samples are the level of `Sdo` before it and then its own bits; it leaves `Sdo` at its last. -/
theorem loopbackAnswers_byteEvents (l : Bool) (b r : Byte) (rest : List Event) :
    loopbackAnswers l (byteEvents b r ++ rest) = true ↔
      r = delayedByOne l b ∧ loopbackAnswers (b.getLsbD 0) rest = true := by
  simp only [byteEvents, List.flatMap_cons, List.flatMap_nil, List.cons_append, List.nil_append, loopbackAnswers,
    Bool.and_eq_true, beq_iff_eq, eq_delayedByOne_iff]
  constructor
  · rintro ⟨h7, h6, h5, h4, h3, h2, h1, h0, hrest⟩
    refine ⟨⟨h7, fun i hi => ?_⟩, hrest⟩
    interval_cases i <;> assumption
  · rintro ⟨⟨h7, hlow⟩, hrest⟩
    exact ⟨h7, hlow 6 (by decide), hlow 5 (by decide), hlow 4 (by decide), hlow 3 (by decide), hlow 2 (by decide),
      hlow 1 (by decide), hlow 0 (by decide), hrest⟩

/-- Settles O13: byte by byte, each from the level the one before left. -/
theorem loopbackDelaysOneBit : Obligations.LoopbackDelaysOneBit := by
  refine ⟨fun s t b r h hloop => ?byte, fun s t c r h hloop => ?cmd⟩
  case byte =>
    rw [newEvents_of_transmitByte_done h, ← List.append_nil (byteEvents b r), loopbackAnswers_byteEvents] at hloop
    exact hloop.1
  case cmd =>
    rw [newEvents_of_transmitCmd_done h, cmdEvents, ← List.append_nil (_ ++ byteEvents c.b3 r.b3)] at hloop
    simp only [List.append_assoc, loopbackAnswers_byteEvents] at hloop
    obtain ⟨h0, h1, h2, h3, -⟩ := hloop
    rw [← h0, ← h1, ← h2, ← h3]

end Sys2Proof.Machine
end

section
/-! PROOFS. The TPI receiver (42_tpi_engine.md R174): each way a receive ends where no transport call fails, and the replay of
a frame that was sent (R179). -/

namespace Sys2Proof.Machine

/-! ### A receive up to the parity bit (R174) -/

/-- The state in which a receive waits for the start bit: `Sdo` is released to 1 (R174). -/
def State.released (s : State) : State := s.exchanged 1 0 true [.set .sdo true]

/-- The state after the release and the bit times that receive these bits. -/
theorem State.released_received (s : State) (bits : List Bool) :
    s.released.received bits
      = s.exchanged (2 * bits.length + 1) bits.length true ([.set .sdo true] ++ tpiRxEvents bits) := by
  rw [State.released, State.received, State.exchanged_exchanged, Nat.add_comm 1, Nat.zero_add, State.exchanged_lvlSdo]

/-- The release is one call and no sample. -/
theorem State.released_receives {s : State} {bits : List Bool} (hok : s.NoFault (2 * bits.length + 1))
    (hbits : s.Samples bits) : s.released.Receives bits :=
  ⟨State.noFault_exchanged (hok.mono (by omega)) _ _ _, fun i hi => by simpa [State.released] using hbits i hi⟩

/-- No start bit in as many samples as the window holds. -/
theorem awaitStart_missing {s : State} {n : Nat} (h : s.Receives (List.replicate n true)) :
    awaitStart n s = .done false (s.received (List.replicate n true)) := by
  induction n generalizing s with
  | zero => exact congrArg _ s.received_nil.symm
  | succ n ih =>
    obtain ⟨hfirst, hrest⟩ := State.Receives.append (xs := [true]) h
    rw [awaitStart, tpiRxBit_done hfirst, Run.bind_done, if_pos rfl, ih hrest, State.received_received]
    rfl

/-- Settles O17: the window passes without a start bit. -/
theorem tpiStartBitMissing : Obligations.TpiStartBitMissing := by
  intro s hok hbits
  have hrx := State.released_receives (by rwa [List.length_replicate]) hbits
  have hend := s.released_received (List.replicate s.cfg.params.startBitWindow true)
  rw [List.length_replicate] at hend
  rw [rxByte, setPin_sdo_exchanged true (hok 0 (by omega)), Run.bind_done, State.exchanged_cfg, ← State.released,
    awaitStart_missing hrx, Run.bind_done, if_pos (by decide), hend]
  rfl

/-- The samples of a frame up to its parity bit, the start bit after `j` samples of 1 (R99). -/
def rxToParity (j : Nat) (d : Byte) (p : Bool) : List Bool := List.replicate j true ++ [false] ++ lsbFirst d ++ [p]

/-- A frame is received up to its parity bit. A parity that disagrees with the data ends the receive; else the two stop bits
are clocked. -/
theorem rxByte_toParity {s : State} {j : Nat} {d : Byte} {p : Bool} (hj : j < s.cfg.params.startBitWindow)
    (hset : s.faultAt 0 = none) (h : s.released.Receives (rxToParity j d p)) :
    rxByte s =
      if p ≠ decide (popcount d % 2 = 1) then
        .raised (.frame (.parityMismatch d p)) (s.released.received (rxToParity j d p))
      else
        (tpiRxBit (s.released.received (rxToParity j d p))).bind fun s1 t => (tpiRxBit t).bind fun s2 u =>
        if !s1 || !s2 then frameError (.framingError s1 s2) u else .done d u := by
  obtain ⟨hdata, hparity⟩ := State.Receives.append h
  obtain ⟨hstart, hdata⟩ := hdata.append
  rw [rxByte, setPin_sdo_exchanged true hset, Run.bind_done, State.exchanged_cfg, ← State.released,
    awaitStart_done hj hstart, Run.bind_done, if_neg (by decide), tpiRxData_done _ hdata, withBits_all, Run.bind_done,
    State.received_received, ← lsbFirst, tpiRxBit_done hparity, Run.bind_done, tpiParity_eq, State.received_received,
    ← rxToParity]
  simp only [bne_iff_ne, frameError]

/-- Settles O16: the parity bit decides whether the stop bits are clocked, and they decide the rest. -/
theorem tpiFrameIsReceived : Obligations.TpiFrameIsReceived := by
  intro s k d p s1 s2 hk hwindow hok hbits
  obtain ⟨j, rfl⟩ := Nat.exists_eq_add_of_le' hk
  have hlen : (rxToParity j d p).length = j + 1 + 9 := by simp [rxToParity, lsbFirst]
  have hframe : List.replicate (j + 1 - 1) true ++ [false] ++ lsbFirst d ++ [p, s1, s2] = rxToParity j d p ++ [s1, s2] := by
    simp [rxToParity]
  have hwhole : (rxToParity j d p ++ [s1, s2]).length = j + 1 + 11 := by simp [hlen]
  rw [hframe] at hbits ⊢
  have hrx := State.released_receives (by rwa [hwhole]) hbits
  obtain ⟨htoParity, hstop⟩ := hrx.append
  obtain ⟨hstop1, hstop2⟩ := State.Receives.append (xs := [s1]) hstop
  rw [rxByte_toParity hwindow (hok 0 (by omega)) htoParity, tpiRxBit_done hstop1, Run.bind_done, tpiRxBit_done hstop2,
    Run.bind_done, State.received_received, State.received_received, List.cons_append,
    List.nil_append, State.released_received, State.released_received, hlen, hwhole]
  refine if_congr Iff.rfl rfl (if_congr ?_ rfl rfl)
  simp

/-! ### The replay law (R179) -/

/-- Transmitted bits that are done traced their own events. -/
theorem trace_of_tpiTxBits_done {bits : List Bool} {s t : State} (h : tpiTxBits bits s = .done () t) :
    t.trace = s.trace ++ tpiTxEvents bits := by
  induction bits generalizing s with
  | nil => cases h; simp [tpiTxEvents]
  | cons v rest ih =>
    obtain ⟨_, s₂, hbit, hrest⟩ := Run.bind_eq_done.1 h
    obtain ⟨_, s₁, hset, hpulse⟩ := Run.bind_eq_done.1 hbit
    rcases setPin_cases .sdo v s with ⟨e, -, hs⟩ | ⟨-, hs⟩ <;> rw [hs] at hset <;> cases hset
    rcases pulse_cases .sck _ with ⟨e, -, hp⟩ | ⟨-, hp⟩ <;> rw [hp] at hpulse <;> cases hpulse
    rw [ih hrest]
    simp [tpiTxEvents, State.setLvl]

/-- The levels of `Sdo` at the pulses of transmitted bits are these bits. -/
theorem sdoAtPulses_tpiTxEvents (l : Bool) (bits : List Bool) : sdoAtPulses l (tpiTxEvents bits) = bits := by
  induction bits generalizing l with
  | nil => rfl
  | cons v rest ih => exact congrArg (v :: ·) (ih v)

/-- A frame that was sent is replayed as its 12 bits. -/
theorem replay_of_txByte_done {u v : State} {b : Byte} (h : txByte b u = .done () v) :
    sdoAtPulses u.lvlSdo (newEvents u v) = [false] ++ lsbFirst b ++ [decide (popcount b % 2 = 1), true, true] := by
  rw [newEvents, trace_of_tpiTxBits_done h, List.drop_left, sdoAtPulses_tpiTxEvents, tpiFrame_eq]

/-- Received bits are clocked by one pulse each. -/
theorem pulses_tpiRxEvents (bits : List Bool) : pulses ([.set .sdo true] ++ tpiRxEvents bits) = bits.length := by
  induction bits with
  | nil => rfl
  | cons v rest ih =>
    simp only [pulses, tpiRxEvents, List.flatMap_cons] at ih ⊢
    simpa using ih

/-- A byte with bit `i` flipped. -/
def flipBit (b : Byte) (i : Nat) : Byte := b ^^^ BitVec.twoPow 8 i

theorem lsbFirst_flipBit (b : Byte) {i : Nat} (hi : i < 8) : lsbFirst (flipBit b i) = (lsbFirst b).modify i (!·) := by
  interval_cases i <;> simp [lsbFirst, flipBit]

/-- A flipped data bit changes the parity. -/
theorem parity_flipBit (b : Byte) {i : Nat} (hi : i < 8) :
    decide (popcount (flipBit b i) % 2 = 1) = !decide (popcount b % 2 = 1) := by
  rw [← tpiParity_eq, ← tpiParity_eq]
  interval_cases i <;> simp [tpiParity, flipBit]

/-- In a frame, data bit `i` is bit `i + 1`. -/
theorem modify_dataBit (b : Byte) (stop : List Bool) {i : Nat} (hi : i < 8) :
    ([false] ++ lsbFirst b ++ stop).modify (i + 1) (!·) = [false] ++ lsbFirst (flipBit b i) ++ stop := by
  rw [lsbFirst_flipBit b hi]
  interval_cases i <;> rfl

/-- Settles O18: the replayed frame is one that O16 receives, and so is the frame with one bit flipped. -/
theorem tpiReplayLaw : Obligations.TpiReplayLaw := by
  intro u v b s hsent hwindow hok
  rw [replay_of_txByte_done hsent]
  refine ⟨fun hbits => ?replayed, fun n hlow hhigh hbits => ?flipped⟩
  case replayed =>
    have hrx := tpiFrameIsReceived s 1 b _ true true le_rfl hwindow hok hbits
    rw [if_neg (by simp), if_neg (by decide)] at hrx
    refine ⟨_, hrx, ?_⟩
    rw [newEvents, State.exchanged_trace, List.drop_left, pulses_tpiRxEvents]
    rfl
  case flipped =>
    obtain hdata | rfl | rfl | rfl : n ≤ 8 ∨ n = 9 ∨ n = 10 ∨ n = 11 := by omega
    · obtain ⟨i, rfl⟩ := Nat.exists_eq_add_of_le' hlow
      rw [modify_dataBit b _ hdata] at hbits
      have hrx := tpiFrameIsReceived s 1 (flipBit b i) _ true true le_rfl hwindow hok hbits
      rw [if_pos (by simp [parity_flipBit b hdata])] at hrx
      rw [if_pos (by omega)]
      exact ⟨_, _, _, hrx⟩
    · have hrx := tpiFrameIsReceived s 1 b (!decide (popcount b % 2 = 1)) true true le_rfl hwindow hok hbits
      rw [if_pos (by simp)] at hrx
      exact ⟨_, _, _, hrx⟩
    · have hrx := tpiFrameIsReceived s 1 b _ false true le_rfl hwindow hok hbits
      rw [if_neg (by simp), if_pos (by decide)] at hrx
      exact ⟨_, _, _, hrx⟩
    · have hrx := tpiFrameIsReceived s 1 b _ true false le_rfl hwindow hok hbits
      rw [if_neg (by simp), if_pos (by decide)] at hrx
      exact ⟨_, _, _, hrx⟩

end Sys2Proof.Machine
end

section
/-! PROOFS. What a step and a host call can end in, whatever the environment does: the state table (44_memory_programmer.md
R260), the typed errors (60_exceptions.md R330 to R335), and the registers that only the handshakes write (10_state.md R41,
R42). -/

namespace Sys2Proof.Machine

/-! ### What every request leaves (R20, R47) -/

/-- What runs changes no core, whichever way it ends. -/
theorem Runs.core {s : State} {check : Option Err} {body : State → Run CallResult} (h : Runs s check body) (t : State) :
    (body t).Leaves (SameCore t) := by
  have hnoWindow : SameCore t { t with extLast := none } := (SameCore.refl t).update rfl rfl rfl rfl rfl
  cases h with
  | isp c r w =>
    exact ((transmitCmd_session c t).coreOfSession (.refl t)).bind fun _ _ h =>
      Run.leaves_done.2 (h.update rfl rfl rfl rfl rfl)
  | engine c => exact (engineBody_session c t).coreOfSession (.refl t)
  | initialise => exact (handshake_core _).core hnoWindow
  | readMemory rn m start n =>
    exact Run.Leaves.bind ((readLoop_core rn m start n n 0 _).core ((SameCore.refl t).update rfl rfl rfl rfl rfl))
      fun _ _ h => Run.leaves_done.2 (h.update rfl rfl rfl rfl rfl)
  | writeMemory rn m start data => exact writeBody_core rn m start data t
  | chipErase => exact eraseBody_core t
  | disable => exact disableBody_core t

/-- Settles O59: a step runs nothing, or it ends with one more result, a trace that only grew, and the rest of the core. -/
theorem stepNeverWritesConfiguration : Obligations.StepNeverWritesConfiguration := by
  intro s t hstep
  rcases step_cases hstep with rfl | ⟨rest, check, body, -, hruns, rfl⟩
  · exact ⟨rfl, rfl, List.prefix_rfl, List.prefix_rfl⟩
  · obtain ⟨r, hret⟩ := checked_returned (c := check) (hruns.core (s.withPending rest))
    exact ⟨hret.cfg, hret.profile, hret.trace, hret.results ▸ List.prefix_append ..⟩

/-! ### The frame of the ISP instructions (R48, R152) -/

/-- Of the instructions only LOAD_EXT_ADDR writes `ext_last` (R221). -/
theorem exec_eq_ispExchange_extLast (i : Instr) (hi : ∀ fa, i ≠ .p1FlashLoadExtAddr fa) :
    ∃ r, ∀ s, exec i s = .next (checked (checkWires s.cfg) s (ispExchange (encode i) r State.extLast)) := by
  cases i with
  | p1FlashLoadExtAddr fa => exact absurd rfl (hi fa)
  | _ => exact ⟨_, fun _ => rfl⟩

/-- All but `lvl[Sdo]`, the trace, `ext_last`, `page_vals`, the results and the environment's draws. -/
structure IspFrame (s t : State) : Prop where
  cfg : t.cfg = s.cfg
  lvlSck : t.lvlSck = s.lvlSck
  lvlAux : t.lvlAux = s.lvlAux
  fsm : t.fsm = s.fsm
  resyncTries : t.resyncTries = s.resyncTries
  peOk : t.peOk = s.peOk
  pollTries : t.pollTries = s.pollTries
  cursor : t.cursor = s.cursor
  pending : t.pending = s.pending
  profile : t.profile = s.profile
  trace : s.trace <+: t.trace

theorem ispFrame_keptByCommands (s : State) : KeptByCommands (fun _ => True) (IspFrame s) Err.KeepsFsm where
  draws h := { h with }
  samples h := { h with }
  drivesSdo _ h := { h with }
  traces _ _ h := { h with trace := h.trace.trans (List.prefix_append ..) }
  extLast _ h := { h with }
  transport _ _ := rfl

/-- The end of a call whose body keeps the frame keeps it, where an error leaves `fsm` as it was. -/
theorem IspFrame.complete {s : State} {r : Run CallResult} (h : r.Ends (IspFrame s) Err.KeepsFsm) :
    IspFrame s (Machine.complete s.fsm r) := by
  cases r with
  | done a t => exact { h with }
  | raised e t => exact { h.1 with fsm := h.2 s.fsm }

theorem IspFrame.refl (s : State) : IspFrame s s :=
  ⟨rfl, rfl, rfl, rfl, rfl, rfl, rfl, rfl, rfl, rfl, List.prefix_rfl⟩

/-- A failed check of the wires, and the exchange, keep the frame. -/
theorem checked_ispExchange_frame (s : State) (c : Cmd) (r : Cmd → CallResult) (w : State → Option Nat) :
    IspFrame s (checked (checkWires s.cfg) s (ispExchange c r w)) := by
  cases hcheck : checkWires s.cfg with
  | some e =>
    rw [checked_config rfl (unassignedAmong?_isConfig hcheck)]
    exact { IspFrame.refl s with }
  | none => exact .complete (ispExchange_ends (ispFrame_keptByCommands s) (fun _ _ => trivial) c r w (.refl s))

/-- A checked exchange returns one result; without an error it leaves `page_vals`, and `ext_last` unless it writes it. -/
theorem checked_ispExchange_result (s : State) (c : Cmd) (r : Cmd → CallResult) (w : State → Option Nat) :
    ∃ res, (checked (checkWires s.cfg) s (ispExchange c r w)).results = s.results ++ [res]
      ∧ ((∀ e, res ≠ .error e) → (checked (checkWires s.cfg) s (ispExchange c r w)).pageVals = s.pageVals)
      ∧ (w = State.extLast → (checked (checkWires s.cfg) s (ispExchange c r w)).extLast = s.extLast) := by
  cases hcheck : checkWires s.cfg with
  | some e => exact ⟨.error e, rfl, fun h => absurd rfl (h e), fun _ => rfl⟩
  | none =>
    have hsession := transmitCmd_session c s
    rw [checked_none rfl, ispExchange]
    cases htx : transmitCmd c s with
    | done res t =>
      rw [htx, Run.leaves_done] at hsession
      refine ⟨r res, congrArg (· ++ [r res]) hsession.results, fun _ => hsession.pageVals, ?_⟩
      rintro rfl
      exact hsession.extLast
    | raised e t =>
      rw [htx, Run.leaves_raised] at hsession
      exact ⟨.error e, congrArg (· ++ [CallResult.error e]) hsession.results, fun h => absurd rfl (h e),
        fun _ => hsession.extLast⟩

/-- Settles O31: each instruction is one checked exchange. -/
theorem ispInstructionFrame : Obligations.IspInstructionFrame := by
  intro i s t h
  have hframe : ∃ r w, t = checked (checkWires s.cfg) s (ispExchange (encode i) r w)
      ∧ ((∀ fa, i ≠ .p1FlashLoadExtAddr fa) → w = State.extLast) := by
    by_cases hi : ∀ fa, i ≠ .p1FlashLoadExtAddr fa
    · obtain ⟨r, hr⟩ := exec_eq_ispExchange_extLast i hi
      rw [hr] at h
      cases h
      exact ⟨r, _, rfl, fun _ => rfl⟩
    · obtain ⟨r, w, hr⟩ := exec_eq_ispExchange i
      rw [hr] at h
      cases h
      exact ⟨r, w, rfl, fun h => absurd h hi⟩
  obtain ⟨r, w, rfl, hext⟩ := hframe
  obtain ⟨hcfg, hsck, haux, hfsm, hresync, hpe, hpoll, hcursor, hpending, hprofile, htrace⟩ :=
    checked_ispExchange_frame s (encode i) r w
  obtain ⟨res, hres, hpages, hw⟩ := checked_ispExchange_result s (encode i) r w
  exact ⟨hcfg, hsck, haux, hfsm, hresync, hpe, hpoll, hcursor, hpending, hprofile, htrace, fun h => hw (hext h), res, hres,
    fun h a => by rw [hpages h]⟩

/-! ### Which host call runs what (R260) -/

/-- The checks and the body that a host call runs in `s`, where it is not refused. -/
inductive HostRuns (s : State) : HostCall → Option Err → (State → Run CallResult) → Prop
  | initialise (hf : s.fsm = .disconnected) : HostRuns s .initialise (checkInitialise s.cfg) initialiseBody
  | readMemory {rn : RegionName} (m : Region) {start n : Nat} (hf : s.fsm = .enabled) :
    HostRuns s (.readMemory rn start n) (undefinedRegionOp? rn m (readNeeds m)) (readBody rn m start n)
  | writeMemory {rn : RegionName} (m : Region) {start : Nat} {data : List Byte} (hf : s.fsm = .enabled) :
    HostRuns s (.writeMemory rn start data) (undefinedRegionOp? rn m (writeNeeds m)) (writeBody rn m start data)
  | chipErase (hf : s.fsm = .enabled) : HostRuns s .chipErase (checkChipErase s.cfg) eraseBody
  | disable (hf : s.fsm = .enabled ∨ s.fsm = .disconnected) : HostRuns s .disable (checkDisable s.cfg) disableBody

theorem execHostCall_hostRuns {c : HostCall} {s t : State} (h : execHostCall c s = .next t) :
    ∃ check body, HostRuns s c check body ∧ t = checked check s body := by
  cases c with
  | initialise =>
    simp only [execHostCall, hostInitialise] at h
    split at h <;> cases h
    exact ⟨_, _, .initialise ‹_›, rfl⟩
  | readMemory rn start n =>
    simp only [execHostCall, hostReadMemory] at h
    split at h
    · split at h
      · cases h
      · split at h <;> cases h
        exact ⟨_, _, .readMemory _ ‹_›, rfl⟩
    · cases h
  | writeMemory rn start data =>
    simp only [execHostCall, hostWriteMemory] at h
    split at h
    · split at h
      · cases h
      · split at h <;> cases h
        exact ⟨_, _, .writeMemory _ ‹_›, rfl⟩
    · cases h
  | chipErase =>
    simp only [execHostCall, hostChipErase] at h
    split at h <;> cases h
    exact ⟨_, _, .chipErase ‹_›, rfl⟩
  | disable =>
    simp only [execHostCall, hostDisable] at h
    split at h <;> cases h
    exact ⟨_, _, .disable ‹_›, rfl⟩

theorem handshake_result {s t : State} {r : CallResult} (h : handshake s = .done r t) : r = .ok := by
  obtain ⟨_, s₁, -, h₁⟩ := Run.bind_eq_done.1 h
  split at h₁
  · cases h₁
  · obtain ⟨_, s₂, -, h₃⟩ := Run.bind_eq_done.1 h₁
    cases h₃
    rfl

theorem eraseBody_result {s t : State} {r : CallResult} (h : eraseBody s = .done r t) : r = .ok := by
  unfold eraseBody at h
  split at h
  · cases h
  · obtain ⟨_, s₁, -, h₁⟩ := Run.bind_eq_done.1 h
    obtain ⟨_, s₂, -, h₂⟩ := Run.bind_eq_done.1 h₁
    exact handshake_result h₂

section
variable {s : State} {c : HostCall} {check : Option Err} {body : State → Run CallResult} (h : HostRuns s c check body)
include h

theorem HostRuns.runs : Runs s check body := by
  cases h with
  | initialise hf => exact .initialise hf
  | readMemory m hf => exact .readMemory _ m _ _ hf
  | writeMemory m hf => exact .writeMemory _ m _ _ hf
  | chipErase hf => exact .chipErase hf
  | disable hf => exact .disable hf

theorem HostRuns.legalStart : legalStart c s.fsm = true := by
  cases h with
  | initialise hf | readMemory m hf | writeMemory m hf | chipErase hf => rw [hf]; rfl
  | disable hf => rcases hf with hf | hf <;> rw [hf] <;> rfl

/-- A host call that is done returns no error and ends in the state of the table. -/
theorem HostRuns.done {r : CallResult} {t : State} (hdone : body s = .done r t) :
    (∀ e, r ≠ .error e) ∧ t.fsm = endState c s.fsm r := by
  cases h with
  | initialise =>
    obtain rfl := handshake_result hdone
    exact ⟨nofun, handshake_fsm hdone⟩
  | readMemory =>
    obtain ⟨bs, u, -, hend⟩ := Run.bind_eq_done.1 hdone
    cases hend
    exact ⟨nofun, rfl⟩
  | writeMemory =>
    obtain ⟨_, u, -, hend⟩ := Run.bind_eq_done.1 hdone
    cases hend
    exact ⟨nofun, rfl⟩
  | chipErase =>
    obtain rfl := eraseBody_result hdone
    exact ⟨nofun, eraseBody_fsm hdone⟩
  | disable =>
    obtain ⟨_, u, -, hend⟩ := Run.bind_eq_done.1 hdone
    cases hend
    exact ⟨nofun, rfl⟩

end

/-- How a host call ends: with the error of its check, with a result, or with an error that was raised (R330, R331). -/
theorem execHostCall_ends {c : HostCall} {s t : State} (h : execHostCall c s = .next t) :
    (∃ e, e.IsConfig ∧ t = returnResult (.error e) s)
    ∨ (∃ r u, SameCore s u ∧ (∀ e, r ≠ .error e) ∧ u.fsm = endState c s.fsm r ∧ t = returnResult r u)
    ∨ ∃ e u, SameCore s u ∧ t = raiseError s.fsm e u := by
  obtain ⟨check, body, hruns, rfl⟩ := execHostCall_hostRuns h
  have hcore := hruns.runs.core s
  cases check with
  | some e => exact .inl ⟨e, hruns.runs.isConfig rfl, checked_config rfl (hruns.runs.isConfig rfl)⟩
  | none =>
    rw [checked_none rfl]
    cases hbody : body s with
    | done r u =>
      rw [hbody] at hcore
      obtain ⟨hr, hfsm⟩ := hruns.done hbody
      exact .inr (.inl ⟨r, u, hcore, hr, hfsm, rfl⟩)
    | raised e u =>
      rw [hbody] at hcore
      exact .inr (.inr ⟨e, u, hcore, rfl⟩)

/-- The table's state after an error is the one that the errors say (R260, R330). -/
theorem endState_error (c : HostCall) (f : Fsm) (e : Err) : endState c f (.error e) = fsmAfterError f e := by
  cases e <;> rfl

/-- A configuration error leaves `fsm` (R331). -/
theorem Err.IsConfig.keepsFsm {e : Err} (h : e.IsConfig) : e.KeepsFsm := by
  rcases h with ⟨p, rfl⟩ | ⟨o, rfl⟩ <;> exact fun _ => rfl

/-- Every host call starts with the check of its state (R260). -/
theorem execHostCall_illegalState {c : HostCall} {s : State} (h : legalStart c s.fsm = false) :
    execHostCall c s = .refused (.illegalState s.fsm) := by
  cases c with
  | initialise => exact if_neg (by simpa [legalStart] using h)
  | readMemory => exact if_neg (by simpa [legalStart] using h)
  | writeMemory => exact if_neg (by simpa [legalStart] using h)
  | chipErase => exact if_neg (by simpa [legalStart] using h)
  | disable => exact if_neg (by simpa [legalStart] using h)

/-- Settles O33: by the three ways a host call ends. -/
theorem hostCallStateTable : Obligations.HostCallStateTable := by
  refine fun c s => ⟨execHostCall_illegalState, fun t h => ⟨?legal, ?ends⟩, fun hf => ?disabled⟩
  case legal =>
    obtain ⟨_, _, hruns, -⟩ := execHostCall_hostRuns h
    exact hruns.legalStart
  case ends =>
    rcases execHostCall_ends h with ⟨e, he, rfl⟩ | ⟨r, u, hcore, -, hfsm, rfl⟩ | ⟨e, u, hcore, rfl⟩
    · exact ⟨_, rfl, by rw [endState_error, he.keepsFsm]; rfl⟩
    · exact ⟨r, by simp [hcore.results], hfsm⟩
    · exact ⟨.error e, by simp [hcore.results], by rw [endState_error]; rfl⟩
  case disabled =>
    rw [← hf]
    refine execHostCall_illegalState ?_
    cases c <;> rw [hf] <;> rfl

/-- Settles O53: a TransportError is none of a check, and a call that is done returns no error. -/
theorem transportErrorEndsHostCall : Obligations.TransportErrorEndsHostCall := by
  intro c s t e h hres
  rcases execHostCall_ends h with ⟨e', he, rfl⟩ | ⟨r, u, hcore, hr, -, rfl⟩ | ⟨e', u, hcore, rfl⟩
  · rcases he with ⟨p, rfl⟩ | ⟨o, rfl⟩ <;> simp at hres
  · rw [returnResult_results, hcore.results] at hres
    exact absurd (List.singleton_inj.1 (List.append_cancel_left hres)) (hr _)
  · obtain rfl : e' = .transport e := by simpa [hcore.results] using hres
    exact ⟨rfl, rfl⟩

/-! ### The handshake's flag (R265, R266, R312 (e)) -/

def Err.IsTransport (e : Err) : Prop := ∃ v, e = .transport v

/-- The end of a handshake: done it leaves `pe_ok` true and Enabled, and ResyncExhausted leaves `pe_ok` false. -/
def Run.SaysPeOk {α : Type} : Run α → Prop
  | .done _ t => t.peOk = true ∧ t.fsm = .enabled
  | .raised e t => ∀ n, e = .resyncExhausted n → t.peOk = false

/-- A part that can only raise a transport error leaves it to what follows. -/
theorem Run.SaysPeOk.bind {α β : Type} {r : Run α} {k : α → State → Run β}
    (h : r.Ends (fun _ => True) Err.IsTransport) (hk : ∀ a s, (k a s).SaysPeOk) : (r.bind k).SaysPeOk := by
  cases r with
  | done a s => exact hk a s
  | raised e s =>
    obtain ⟨-, v, rfl⟩ := h
    exact nofun

theorem keptByCommands_transport : KeptByCommands (fun _ => True) (fun _ => True) Err.IsTransport :=
  ⟨fun _ => trivial, fun _ => trivial, fun _ _ => trivial, fun _ _ _ => trivial, fun _ _ => trivial, fun v => ⟨v, rfl⟩⟩

theorem issue_endsTransport (T : Template) (addr : Option Nat) (input : Option Byte) (s : State) :
    (issue T addr input s).Ends (fun _ => True) Err.IsTransport :=
  issue_ends keptByCommands_transport (fun _ _ => trivial) T addr input trivial

theorem resyncLoop_saysPeOk (T : Template) (poll : Fin 4 × Byte) (n : Nat) (s : State) :
    (resyncLoop T poll n s).SaysPeOk := by
  induction n generalizing s with
  | zero => exact fun _ _ => rfl
  | succ n ih =>
    refine .bind (issue_endsTransport T none none s) fun res s₁ => ?_
    split
    · exact ⟨rfl, rfl⟩
    refine .bind (pulse_ends keptByCommands_transport trivial trivial) fun _ s₂ => ?_
    split
    · exact fun _ _ => rfl
    · exact ih _

theorem enableBody_saysPeOk (T : Template) (s : State) : (enableBody T s).SaysPeOk := by
  unfold enableBody
  split
  · exact .bind (issue_endsTransport T none none s) fun _ _ => ⟨rfl, rfl⟩
  · exact resyncLoop_saysPeOk T _ _ s

theorem handshake_saysPeOk (s : State) : (handshake s).SaysPeOk := by
  refine .bind (runPinList_ends keptByCommands_transport (fun _ _ _ => trivial) _ (fun _ _ => trivial) trivial)
    fun _ s₁ => ?_
  split
  · exact nofun
  · have hbody := enableBody_saysPeOk ‹Template› { s₁ with fsm := .resyncing }
    cases hrun : enableBody ‹Template› { s₁ with fsm := .resyncing } with
    | done a t => rw [hrun] at hbody; exact hbody
    | raised e t => rw [hrun] at hbody; exact hbody

theorem eraseBody_saysPeOk (s : State) : (eraseBody s).SaysPeOk := by
  unfold eraseBody
  split
  · exact nofun
  · exact .bind (issue_endsTransport _ none none _) fun _ s₁ =>
      .bind (delay_ends keptByCommands_transport trivial _) fun _ s₂ => handshake_saysPeOk s₂

/-- Settles O54: the call's result is that of its handshake. -/
theorem handshakeResultSaysPeOk : Obligations.HandshakeResultSaysPeOk := by
  intro c s t hc h
  obtain ⟨check, body, hruns, rfl⟩ := execHostCall_hostRuns h
  have hsays : (body s).SaysPeOk := by
    rcases hc with rfl | rfl <;> cases hruns
    · exact handshake_saysPeOk _
    · exact eraseBody_saysPeOk s
  have hcore := hruns.runs.core s
  cases check with
  | some e =>
    rw [checked_config rfl (hruns.runs.isConfig rfl)]
    rcases hruns.runs.isConfig rfl with ⟨p, rfl⟩ | ⟨o, rfl⟩ <;> simp
  | none =>
    rw [checked_none rfl]
    cases hbody : body s with
    | done r u =>
      rw [hbody] at hcore hsays
      obtain ⟨hr, -⟩ := hruns.done hbody
      refine ⟨fun _ => hsays, fun n hres => ?_⟩
      rw [complete, returnResult_results, Run.leaves_done.1 hcore |>.results] at hres
      exact absurd (List.singleton_inj.1 (List.append_cancel_left hres)) (hr _)
    | raised e u =>
      rw [hbody] at hcore hsays
      refine ⟨fun hres => ?_, fun n hres => ?_⟩
      · simp [complete, Run.leaves_raised.1 hcore |>.results] at hres
      · obtain rfl : e = .resyncExhausted n := by
          simpa [complete, Run.leaves_raised.1 hcore |>.results] using hres
        exact ⟨hsays n rfl, rfl⟩

end Sys2Proof.Machine
end

section
/-! PROOFS. The configuration checks of the host calls (44_memory_programmer.md R261, R331, R338), the calls that leave the
handshake's registers (10_state.md R41, R42), the step, `page_vals` as memory (R45), the byte a page poll reads (R291), the
state at reset (R50), and when LOAD_EXT_ADDR is sent (R264). -/

namespace Sys2Proof.Machine

/-! ### Configuration checks (R261, R331, R338) -/

theorem checkInitialise_isConfig {c : Configuration} {e : Err} (h : checkInitialise c = some e) : e.IsConfig := by
  rcases Option.or_eq_some_iff.1 h with he | ⟨-, he⟩
  · exact unassignedAmong?_isConfig he
  · exact undefinedPartOp?_isConfig he

theorem checkChipErase_isConfig {c : Configuration} {e : Err} (h : checkChipErase c = some e) : e.IsConfig := by
  rcases Option.or_eq_some_iff.1 h with he | ⟨-, he⟩ <;> exact undefinedPartOp?_isConfig he

section
variable {s : State} {e : Err}

theorem initialise_configError (hf : s.fsm = .disconnected) (he : checkInitialise s.cfg = some e) :
    execHostCall .initialise s = .next (returnResult (.error e) s) := by
  rw [execHostCall, hostInitialise, if_pos hf, checked_config he (checkInitialise_isConfig he)]

theorem chipErase_configError (hf : s.fsm = .enabled) (he : checkChipErase s.cfg = some e) :
    execHostCall .chipErase s = .next (returnResult (.error e) s) := by
  rw [execHostCall, hostChipErase, if_pos hf, checked_config he (checkChipErase_isConfig he)]

section
variable {rn : RegionName} {m : Region} {start : Nat} (hf : s.fsm = .enabled) (hm : findRegion s rn = some m)
include hf hm

theorem readMemory_configError {n : Nat} (hn : start + n ≤ m.size)
    (he : undefinedRegionOp? rn m (readNeeds m) = some e) :
    execHostCall (.readMemory rn start n) s = .next (returnResult (.error e) s) := by
  simp only [execHostCall, hostReadMemory, if_pos hf, hm, if_pos hn, checked_config he (undefinedRegionOp?_isConfig he)]

theorem writeMemory_configError {data : List Byte} (hn : start + data.length ≤ m.size)
    (he : undefinedRegionOp? rn m (writeNeeds m) = some e) :
    execHostCall (.writeMemory rn start data) s = .next (returnResult (.error e) s) := by
  simp only [execHostCall, hostWriteMemory, if_pos hf, hm, if_pos hn, checked_config he (undefinedRegionOp?_isConfig he)]

end

theorem disable_configError (hf : s.fsm = .enabled ∨ s.fsm = .disconnected) (he : checkDisable s.cfg = some e) :
    execHostCall .disable s = .next (returnResult (.error e) s) := by
  rw [execHostCall, hostDisable, if_pos hf, checked_config he (unassignedAmong?_isConfig he)]

end

/-- Settles O35: each call runs its check first, and the check names configuration errors only. -/
theorem configErrorChangesNothing : Obligations.ConfigErrorChangesNothing := fun _ _ =>
  ⟨initialise_configError, chipErase_configError, fun _ _ _ _ hf hm hn he => readMemory_configError hf hm hn he,
    fun _ _ _ _ hf hm hn he => writeMemory_configError hf hm hn he, disable_configError⟩

/-- The first listed opcode without a template is the one reported (R338). -/
theorem undefinedRegionOp?_first (rn : RegionName) {m : Region} {os before after : List OpName} {o : OpName}
    (h : os = before ++ o :: after) (hb : ∀ x ∈ before, regionOp m x ≠ none) (ho : regionOp m o = none) :
    undefinedRegionOp? rn m os = some (.undefinedOpcode (.region rn o)) := by
  have hfind : before.find? (fun o => (regionOp m o).isNone) = none := by
    simpa [Option.isNone_iff_eq_none] using hb
  simp [undefinedRegionOp?, h, List.find?_append, hfind, ho]

/-- The opcodes of a write, in the order they are checked (R261). -/
theorem writeNeeds_eq (m : Region) : writeNeeds m =
    if 0 < m.pageSize ∧ m.ops.writepage ≠ none then
      (if m.ops.readLo.isSome then [.loadpageLo, .loadpageHi, .writepage, .readLo, .readHi]
        else [.loadpageLo, .writepage, .read])
    else (if m.ops.readLo.isSome then [.writeLo, .writeHi, .readLo, .readHi] else [.write, .read]) := by
  have hpaged : paged m = true ↔ 0 < m.pageSize ∧ m.ops.writepage ≠ none := by
    simp [paged, Option.isSome_iff_ne_none]
  cases hw : m.ops.readLo.isSome <;> simp [writeNeeds, hpaged, opClass, wordOrganised, hw]

/-- Settles O37: the check of each call names the first undefined opcode of its list. -/
theorem neededOpcodesInOrder : Obligations.NeededOpcodesInOrder := by
  refine ⟨fun s rn m start data before after o hf hm hn hb ho => ⟨fun hread => ?read, fun hwrite => ?write⟩,
    fun s hf hpins hpgm => ?initialise, fun s hf => ⟨fun hce => ?chipErase, fun hce hpgm => ?pgmEnable⟩⟩
  case read =>
    exact readMemory_configError hf hm hn (undefinedRegionOp?_first rn hread hb ho)
  case write =>
    rw [← writeNeeds_eq] at hwrite
    exact writeMemory_configError hf hm hn (undefinedRegionOp?_first rn hwrite hb ho)
  case initialise =>
    have hcheck : checkInitialise s.cfg = some (.undefinedOpcode .pgmEnable) := by
      rw [checkInitialise, unassignedPin?, unassignedAmong?_eq_none.2 hpins, hpgm]
      rfl
    exact initialise_configError hf hcheck
  case chipErase =>
    have hcheck : checkChipErase s.cfg = some (.undefinedOpcode .chipErase) := by rw [checkChipErase, hce]; rfl
    exact chipErase_configError hf hcheck
  case pgmEnable =>
    obtain ⟨T, hT⟩ := Option.ne_none_iff_exists'.1 hce
    have hcheck : checkChipErase s.cfg = some (.undefinedOpcode .pgmEnable) := by rw [checkChipErase, hT, hpgm]; rfl
    exact chipErase_configError hf hcheck

/-! ### The registers of the handshake (R41, R42) -/

/-- `pe_ok` and `resync_tries`, which only a handshake writes. -/
structure SameHandshake (s t : State) : Prop where
  peOk : t.peOk = s.peOk
  resyncTries : t.resyncTries = s.resyncTries

theorem SameHandshake.refl (s : State) : SameHandshake s s := ⟨rfl, rfl⟩

theorem sameHandshake_keptByCommands (s : State) : KeptByCommands (fun _ => True) (SameHandshake s) fun _ => True where
  draws h := { h with }
  samples h := { h with }
  drivesSdo _ h := { h with }
  traces _ _ h := { h with }
  extLast _ h := { h with }
  transport _ := trivial

section
variable {s : State} (rn : RegionName) (m : Region) {t : State} (h : SameHandshake s t)
include h

theorem delay_handshake (us : Nat) : (delay us t).Leaves (SameHandshake s) :=
  (delay_ends (sameHandshake_keptByCommands s) h us).leaves

theorem withOp_send_handshake (o : OpName) (a : Nat) (d : Option Byte) :
    (withOp rn m o (fun T t => send m T a d t) t).Leaves (SameHandshake s) := by
  unfold withOp
  split
  · exact (send_ends (sameHandshake_keptByCommands s) (fun _ _ => trivial) m _ a d h).leaves
  · exact h

theorem readByte_handshake (a : Nat) : (readByte rn m a t).Leaves (SameHandshake s) := by
  unfold readByte withOp
  split
  · exact (send_ends (sameHandshake_keptByCommands s) (fun _ _ => trivial) m _ a none h).leaves.bind fun _ _ h => h
  · exact h

theorem readLoop_handshake (start total left q : Nat) :
    (readLoop rn m start total left q t).Leaves (SameHandshake s) := by
  induction left generalizing q t with
  | zero => exact h
  | succ left ih =>
    exact (readByte_handshake rn m h _).bind fun _ u hu => (ih (t := u.emit _) { hu with } _).bind fun _ _ h => h

theorem pollLoop_handshake (a : Nat) (d : Byte) (n : Nat) : (pollLoop rn m a d n t).Leaves (SameHandshake s) := by
  induction n generalizing t with
  | zero => exact h
  | succ n ih =>
    refine (delay_handshake h _).bind fun _ u hu => (readByte_handshake rn m hu a).bind fun v w hw => ?_
    have hcount : SameHandshake s w.countPoll := { hw with }
    split
    · exact hw
    split
    · exact hcount
    · exact ih hcount

theorem poll_handshake (a : Nat) (d : Byte) : (poll rn m a d t).Leaves (SameHandshake s) := by
  unfold poll
  split
  · exact delay_handshake h _
  · exact pollLoop_handshake rn m (t := t.clearPoll) { h with } a d _

theorem writeByte_handshake (a : Nat) (d : Byte) : (writeByte rn m a d t).Leaves (SameHandshake s) := by
  refine (readByte_handshake rn m h a).bind fun cur u hu => ?_
  split
  · exact hu
  · exact (withOp_send_handshake rn m hu _ a _).bind fun _ w hw => poll_handshake rn m hw a d

theorem writeLoop_handshake (start total : Nat) (data : List Byte) (q : Nat) :
    (writeLoop rn m start total data q t).Leaves (SameHandshake s) := by
  induction data generalizing q t with
  | nil => exact h
  | cons d rest ih => exact (writeByte_handshake rn m h _ d).bind fun _ u hu => ih (t := u.emit _) { hu with } _

theorem flushPage_handshake (base : Nat) : (flushPage rn m base t).Leaves (SameHandshake s) := by
  refine (withOp_send_handshake rn m h _ base none).bind fun _ u hu => Run.Leaves.bind ?_ fun _ _ h => { h with }
  split
  · exact delay_handshake hu _
  · exact poll_handshake rn m hu _ _

theorem pagedLoop_handshake (start total : Nat) (data : List Byte) (q : Nat) :
    (pagedLoop rn m start total data q t).Leaves (SameHandshake s) := by
  induction data generalizing q t with
  | nil => exact h
  | cons d rest ih =>
    refine (withOp_send_handshake rn m (t := { t with cursor := q }) { h with } _ _ _).bind fun _ u hu => ?_
    have hstored : SameHandshake s { u with pageVals := Memory.store u.pageVals (start + q) d } := { hu with }
    dsimp only
    split
    · exact (flushPage_handshake rn m hstored _).bind fun _ v hv => ih (t := v.emit _) { hv with } _
    · exact ih hstored _

theorem writeBody_handshake (start : Nat) (data : List Byte) : (writeBody rn m start data t).Leaves (SameHandshake s) := by
  refine Run.Leaves.bind ?_ fun _ _ h => { h with }
  split
  · exact pagedLoop_handshake rn m (t := { t with fsm := .writing, extLast := none, pageVals := [] }) { h with } start _
      data 0
  · exact writeLoop_handshake rn m (t := { t with fsm := .writing, extLast := none }) { h with } start _ data 0

end

/-- A host call other than the two handshakes leaves the handshake's registers. -/
theorem HostRuns.sameHandshake {s : State} {c : HostCall} {check : Option Err} {body : State → Run CallResult}
    (h : HostRuns s c check body) (hinit : c ≠ .initialise) (herase : c ≠ .chipErase) :
    (body s).Leaves (SameHandshake s) := by
  cases h with
  | initialise => exact absurd rfl hinit
  | chipErase => exact absurd rfl herase
  | readMemory m =>
    exact Run.Leaves.bind (readLoop_handshake _ m (t := { s with fsm := .reading, extLast := none })
      { SameHandshake.refl s with } _ _ _ _) fun _ _ h => { h with }
  | writeMemory m => exact writeBody_handshake _ m (.refl s) _ _
  | disable =>
    refine Run.Leaves.bind (runPinList_ends (sameHandshake_keptByCommands s) ?_ s.cfg.disablePostamble (fun _ _ => trivial)
      (s := { s with extLast := none }) { SameHandshake.refl s with }).leaves fun _ _ h => { h with }
    exact fun p v h => ⟨by simp [h.peOk], by simp [h.resyncTries]⟩

/-- How a call ends writes neither register. -/
theorem checked_sameHandshake {s : State} {check : Option Err} {body : State → Run CallResult}
    (h : (body s).Leaves (SameHandshake s)) : SameHandshake s (checked check s body) := by
  cases check with
  | some e => exact ⟨rfl, rfl⟩
  | none =>
    rw [checked_none rfl]
    cases hbody : body s with
    | done r t => rw [hbody] at h; exact { Run.leaves_done.1 h with }
    | raised e t => rw [hbody] at h; exact { Run.leaves_raised.1 h with }

/-- A request other than the two handshakes leaves the handshake's registers. -/
theorem runRequest_sameHandshake {r : Request} {s t : State} (h : runRequest r s = .next t)
    (hinit : r ≠ .host .initialise) (herase : r ≠ .host .chipErase) : SameHandshake s t := by
  cases r with
  | host c =>
    obtain ⟨check, body, hruns, rfl⟩ := execHostCall_hostRuns h
    exact checked_sameHandshake (hruns.sameHandshake (fun hc => hinit (hc ▸ rfl)) fun hc => herase (hc ▸ rfl))
  | engine c =>
    cases h
    exact checked_sameHandshake ((engineBody_session c s).mono fun _ h => ⟨h.peOk, h.resyncTries⟩)
  | isp bytes =>
    simp only [runRequest, runIsp] at h
    split at h
    · obtain ⟨r, w, hi⟩ := exec_eq_ispExchange ‹Instr›
      rw [hi] at h
      cases h
      exact checked_sameHandshake
        (ispExchange_ends (sameHandshake_keptByCommands s) (fun _ _ => trivial) _ r w (.refl s)).leaves
    · cases h

/-! ### Steps -/

theorem step_request {s : State} {r : Request} {rest : List Request} (h : s.pending = r :: rest) (hwf : s.cfg.wf = true) :
    step s = runRequest r (s.withPending rest) := by
  rw [step, h]
  exact if_pos hwf

/-- Settles O55: a step without a request changes nothing, and another runs its next request. -/
theorem onlyHandshakesWritePeOk : Obligations.OnlyHandshakesWritePeOk := by
  intro s t hstep hinit herase
  cases hp : s.pending with
  | nil =>
    rw [step, hp] at hstep
    cases hstep
    exact ⟨rfl, rfl⟩
  | cons r rest =>
    rw [step, hp] at hstep
    dsimp only at hstep
    split at hstep
    · have hkept := runRequest_sameHandshake hstep (fun hr => hinit (by rw [hp, hr]; rfl))
        fun hr => herase (by rw [hp, hr]; rfl)
      exact ⟨hkept.peOk, hkept.resyncTries⟩
    · cases hstep

/-- The request that a table word stands for is read as the instruction that the decoder reads from the word. -/
theorem decode_of_decodeTableWord {nbits w : Nat} {i : Instr} (h : decodeTableWord nbits w = some i) :
    decode (tableProfile nbits w) (tableBytes nbits w) = .ok i := by
  unfold decodeTableWord at h
  split at h
  · cases h; assumption
  · cases h

theorem runIsp_of_decode {bytes : List Byte} {s : State} {i : Instr} (h : decode s.profile bytes = .ok i) :
    runIsp bytes s = exec i s := by rw [runIsp, h]

/-- Settles O32: a step takes the next request off and runs it. -/
theorem stepRunsTheNextRequest : Obligations.StepRunsTheNextRequest := by
  refine ⟨fun s bytes rest i hp hwf hi => ?_, fun s c rest hp hwf => step_request hp hwf,
    fun s c rest hp hwf => step_request hp hwf, fun s nbits w i hwf hi => ?_⟩
  · rw [step_request hp hwf]
    exact runIsp_of_decode hi
  · have hp : (s.withFetchWord nbits w).pending = .isp (tableBytes nbits w) :: s.pending := rfl
    rw [step_request hp hwf]
    exact runIsp_of_decode (decode_of_decodeTableWord hi)

/-- Settles O57: the registers are those of R50, and no required pin is asked for in Disconnected. -/
theorem sessionAtReset : Obligations.SessionAtReset :=
  ⟨⟨.inl rfl, rfl, rfl, Nat.zero_le _, Nat.zero_le _, nofun⟩, rfl, rfl, rfl, rfl, rfl, rfl, rfl, rfl, rfl⟩

/-! ### `page_vals` as memory (R45, R291) -/

theorem Memory.read?_store_same (m : Memory) (a : Nat) (d : Byte) : Memory.read? (Memory.store m a d) a = some d := by
  induction m with
  | nil => simp [Memory.store, Memory.read?]
  | cons c rest ih =>
    rw [Memory.store]
    split
    · simp [Memory.read?]
    split
    · simp [Memory.read?]
    · next hne => rw [Memory.read?, if_neg (Ne.symm hne), ih]

theorem Memory.read?_store_ne (m : Memory) {a x : Nat} (hx : x ≠ a) (d : Byte) :
    Memory.read? (Memory.store m a d) x = Memory.read? m x := by
  induction m with
  | nil => simp [Memory.store, Memory.read?, hx.symm]
  | cons c rest ih =>
    rw [Memory.store]
    split
    · rw [Memory.read?, if_neg hx.symm]
    split
    · next hac => rw [Memory.read?, if_neg hx.symm, Memory.read?, if_neg (hac ▸ hx.symm)]
    · rw [Memory.read?, ih, ← Memory.read?]

/-- Settles O60: the two rules of a store. -/
theorem pageValsReadAfterStore : Obligations.PageValsReadAfterStore :=
  fun m a d _ => ⟨Memory.read?_store_same m a d, fun _ hx => Memory.read?_store_ne m hx d⟩

/-- The byte a page poll reads is listed, is not 0xFF, and no such byte lies above it. -/
theorem Memory.highestNotErased_spec (m : Memory) :
    match Memory.highestNotErased m with
    | some c => c ∈ m ∧ c.2 ≠ 0xFF#8 ∧ ∀ x ∈ m, x.2 ≠ 0xFF#8 → x.1 ≤ c.1
    | none => ∀ x ∈ m, x.2 = 0xFF#8 := by
  induction m with
  | nil => exact nofun
  | cons c rest ih =>
    rw [Memory.highestNotErased]
    cases hrest : Memory.highestNotErased rest with
    | none =>
      simp only [hrest] at ih
      by_cases hc : c.2 = 0xFF#8
      · simpa [hc] using fun a b hx => ih (a, b) hx
      · simpa [hc] using fun a b hx hb => absurd (ih (a, b) hx) hb
    | some y =>
      simp only [hrest] at ih
      obtain ⟨hmem, hy, hmax⟩ := ih
      by_cases hc : c.2 ≠ 0xFF#8 ∧ y.1 < c.1
      · obtain ⟨hne, hlt⟩ := hc
        simp only [if_pos (And.intro hne hlt)]
        refine ⟨List.mem_cons_self, hne, fun x hx hxne => ?_⟩
        rcases List.mem_cons.1 hx with rfl | hx
        · exact le_rfl
        · exact (hmax x hx hxne).trans hlt.le
      · simp only [if_neg hc]
        refine ⟨List.mem_cons_of_mem _ hmem, hy, fun x hx hxne => ?_⟩
        rcases List.mem_cons.1 hx with rfl | hx
        · exact not_lt.1 fun hlt => hc ⟨hxne, hlt⟩
        · exact hmax x hx hxne

/-- Settles O49: by the rule of the chosen byte. -/
theorem pagePollByteIsHighest : Obligations.PagePollByteIsHighest := by
  intro m
  have hspec := Memory.highestNotErased_spec m
  cases h : Memory.highestNotErased m with
  | none =>
    rw [h] at hspec
    exact ⟨nofun, iff_of_true rfl hspec⟩
  | some c =>
    rw [h] at hspec
    obtain ⟨hmem, hc, -⟩ := id hspec
    refine ⟨?_, iff_of_false nofun fun hall => hc (hall c hmem)⟩
    rintro _ ⟨⟩
    exact hspec

/-! ### When LOAD_EXT_ADDR is sent (R264) -/

/-- Settles O42: by the region's template and the window. -/
theorem loadExtAddrOnlyForNewWindow : Obligations.LoadExtAddrOnlyForNewWindow := fun m fa s =>
  ⟨fun h => by rw [leaIfNeeded, h], fun hw => leaIfNeeded_sameWindow m hw,
    fun _ hT hw hok => leaIfNeeded_newWindow hT hw hok⟩

end Sys2Proof.Machine
end

section
/-! PROOFS. The preamble and the postamble (70_reset_and_hazards.md R372, R383), the handshake with its resync
(44_memory_programmer.md R265 to R267), `chip_erase` and `disable` (R300, R305), where no transport call fails. -/

namespace Sys2Proof.Machine

/-! ### Pin operations that do not fail (R372, R383) -/

/-- An operation that does not fail is one call and one event, after the level it sets. -/
theorem runPinOp_done {s : State} (op : PinOp) (h : s.faultAt 0 = none) :
    runPinOp op s = .done () (s.afterPinOps [op]) := by
  cases op with
  | set p v =>
    rcases setPin_cases p v s with ⟨e, he, -⟩ | ⟨-, hset⟩
    · simp [he] at h
    · rw [runPinOp, hset]
      cases p <;> simp [State.afterPinOps, levelsAfter, pinOpEvents, State.exchanged, State.emit, State.setLvl,
        State.drawFault]
  | pulse p => exact pulse_exchanged p h
  | delay us => exact delay_exchanged us h

/-- The levels set do not depend on the exchanges before, nor those on the levels. -/
theorem levelsAfter_exchanged (ops : List PinOp) (s : State) (n g : Nat) (evs : List Event) :
    levelsAfter ops (s.exchanged n g s.lvlSdo evs)
      = (levelsAfter ops s).exchanged n g (levelsAfter ops s).lvlSdo evs := by
  induction ops generalizing s with
  | nil => rfl
  | cons op rest ih =>
    cases op with
    | set p v =>
      rw [levelsAfter, levelsAfter, ← ih]
      cases p <;> rfl
    | pulse p => exact ih s
    | delay us => exact ih s

/-- Levels set write the three level registers only. -/
theorem levelsAfter_frame (ops : List PinOp) (s : State) :
    ∃ sck sdo aux, levelsAfter ops s = { s with lvlSck := sck, lvlSdo := sdo, lvlAux := aux } := by
  induction ops generalizing s with
  | nil => exact ⟨s.lvlSck, s.lvlSdo, s.lvlAux, rfl⟩
  | cons op rest ih =>
    cases op with
    | set p v =>
      obtain ⟨sck, sdo, aux, h⟩ := ih (s.setLvl p v)
      refine ⟨sck, sdo, aux, h.trans ?_⟩
      cases p <;> rfl
    | pulse p => exact ih s
    | delay us => exact ih s

/-- Pin operations write the level registers, the trace and the draws of their calls only. -/
theorem afterPinOps_frame (s : State) (ops : List PinOp) :
    ∃ sck sdo aux, s.afterPinOps ops
      = { s.exchanged ops.length 0 sdo (pinOpEvents ops) with lvlSck := sck, lvlAux := aux } := by
  obtain ⟨sck, sdo, aux, h⟩ := levelsAfter_frame ops s
  exact ⟨sck, sdo, aux, by rw [State.afterPinOps, h]; rfl⟩

section
variable (s : State) (ops : List PinOp)

@[simp] theorem State.afterPinOps_cfg : (s.afterPinOps ops).cfg = s.cfg := by
  obtain ⟨_, _, _, h⟩ := afterPinOps_frame s ops
  rw [h]; rfl

@[simp] theorem State.afterPinOps_resyncTries : (s.afterPinOps ops).resyncTries = s.resyncTries := by
  obtain ⟨_, _, _, h⟩ := afterPinOps_frame s ops
  rw [h]; rfl

@[simp] theorem State.faultAt_afterPinOps (k : Nat) : (s.afterPinOps ops).faultAt k = s.faultAt (ops.length + k) := by
  obtain ⟨_, sdo, _, h⟩ := afterPinOps_frame s ops
  rw [h]
  exact s.faultAt_exchanged ops.length 0 k sdo (pinOpEvents ops)

/-- Pin operations draw no sample. -/
@[simp] theorem State.response_afterPinOps (k : Nat) : (s.afterPinOps ops).response k = s.response k := by
  obtain ⟨_, _, _, h⟩ := afterPinOps_frame s ops
  rw [h]
  simp [State.response, State.byteAt, State.sample, State.level, State.exchanged]

end

theorem afterPinOps_cons (s : State) (op : PinOp) (ops : List PinOp) :
    s.afterPinOps (op :: ops) = (s.afterPinOps [op]).afterPinOps ops := by
  have hlevels : levelsAfter (op :: ops) s = levelsAfter ops (levelsAfter [op] s) := by cases op <;> rfl
  have hcalls : (op :: ops).length = [op].length + ops.length := by simp [Nat.add_comm]
  rw [State.afterPinOps, hlevels, hcalls, State.afterPinOps, State.afterPinOps, levelsAfter_exchanged,
    State.exchanged_exchanged]
  rfl

/-- Operations none of whose calls fails. -/
theorem runPinOps_done {s : State} (ops : List PinOp) (h : s.NoFault ops.length) :
    runPinOps ops s = .done () (s.afterPinOps ops) := by
  induction ops generalizing s with
  | nil => exact congrArg _ s.exchanged_zero.symm
  | cons op rest ih =>
    have hrest : (s.afterPinOps [op]).NoFault rest.length := fun k hk => by
      rw [State.faultAt_afterPinOps]
      exact h _ (by simp; omega)
    rw [runPinOps, runPinOp_done op (h 0 (Nat.succ_pos _)), Run.bind_done, ih hrest, ← afterPinOps_cons]

theorem runPinList_done {s : State} (ops : List PinOp) (h : s.NoFault ops.length) :
    runPinList ops s = .done () (s.afterPinOps ops) := by rw [runPinList, runPinOps_done ops h]

/-- Settles O52: the check passes, and the postamble's operations are done. -/
theorem disableRunsThePostamble : Obligations.DisableRunsThePostamble := by
  intro s hf hpins hok
  have hlist := runPinList_done (s := { s with extLast := none }) s.cfg.disablePostamble hok
  rw [execHostCall, hostDisable, if_pos hf, checked_none (checkDisable_eq_none.2 hpins), disableBody, hlist]
  rfl

/-! ### The registers of the handshake -/

/-- The state with the registers that a handshake writes. -/
def State.withHandshake (s : State) (f : Fsm) (tries : Nat) (pe : Bool) : State :=
  { s with fsm := f, resyncTries := tries, peOk := pe }

section
variable (s : State) (f : Fsm) (n : Nat) (pe : Bool)

@[simp] theorem State.withHandshake_cfg : (s.withHandshake f n pe).cfg = s.cfg := rfl
@[simp] theorem State.withHandshake_fsm : (s.withHandshake f n pe).fsm = f := rfl
@[simp] theorem State.withHandshake_resyncTries : (s.withHandshake f n pe).resyncTries = n := rfl
@[simp] theorem State.withHandshake_peOk : (s.withHandshake f n pe).peOk = pe := rfl
@[simp] theorem State.withHandshake_lvlSdo : (s.withHandshake f n pe).lvlSdo = s.lvlSdo := rfl
@[simp] theorem State.faultAt_withHandshake (k : Nat) : (s.withHandshake f n pe).faultAt k = s.faultAt k := rfl
@[simp] theorem State.response_withHandshake (k : Nat) : (s.withHandshake f n pe).response k = s.response k := rfl

@[simp] theorem State.exchanged_withHandshake (calls g : Nat) (v : Bool) (evs : List Event) :
    (s.withHandshake f n pe).exchanged calls g v evs = (s.exchanged calls g v evs).withHandshake f n pe := rfl

@[simp] theorem State.withHandshake_withHandshake (f' : Fsm) (n' : Nat) (pe' : Bool) :
    (s.withHandshake f n pe).withHandshake f' n' pe' = s.withHandshake f' n' pe' := rfl

end

@[simp] theorem State.response_exchanged (s : State) (n g k : Nat) (v : Bool) (evs : List Event) :
    (s.exchanged n g v evs).response k = s.response (g + k) := by
  simp [State.response, State.byteAt, Nat.add_assoc]

/-! ### Attempts of the handshake (R265 to R267) -/

/-- The state after `k` attempts that fail, each counted and followed by one pulse (R266). -/
def State.afterAttempts (s : State) (c : Cmd) (k : Nat) : State :=
  (s.exchanged (97 * k) (32 * k) (if k = 0 then s.lvlSdo else c.b3.getLsbD 0) (failedAttempts s c k)).withHandshake s.fsm
    (s.resyncTries + k) s.peOk

theorem afterAttempts_zero (s : State) (c : Cmd) : s.afterAttempts c 0 = s := s.exchanged_zero

@[simp] theorem State.afterAttempts_cfg (s : State) (c : Cmd) (k : Nat) : (s.afterAttempts c k).cfg = s.cfg := rfl

/-- The state after the exchange of the attempt that follows `k` attempts that fail. -/
def State.attempted (s : State) (c : Cmd) (k : Nat) : State :=
  s.exchanged (97 * k + 96) (32 * (k + 1)) (c.b3.getLsbD 0) (failedAttempts s c k ++ cmdEvents c (s.response (32 * k)))

section
variable {s : State} {T : Template} {poll : Fin 4 × Byte} {k : Nat} {c : Cmd} (hc : c = build T none none)
include hc

/-- The attempt after `k` that fail: one exchange, answered by the next response. -/
theorem issue_afterAttempts (h : s.NoFault (97 * k + 96)) :
    issue T none none (s.afterAttempts c k)
      = .done (s.response (32 * k)) ((s.attempted c k).withHandshake s.fsm (s.resyncTries + k) s.peOk) := by
  have hok : (s.afterAttempts c k).NoFault 96 := fun j hj => by
    simpa [State.afterAttempts] using h _ (by omega)
  rw [issue, ← hc, transmitCmd_done c hok]
  simp [State.afterAttempts, State.attempted, State.afterCmd, State.exchanged_exchanged, Nat.mul_add]

/-- The attempt that matches ends the loop. -/
theorem resyncLoop_matches (n : Nat) (h : s.NoFault (97 * k + 96)) (hpoll : (s.response (32 * k)).byte poll.1 = poll.2) :
    resyncLoop T poll (n + 1) (s.afterAttempts c k)
      = .done () ((s.attempted c k).withHandshake .enabled (s.resyncTries + k) true) := by
  have hecho : echoOk poll (s.response (32 * k)) = true := beq_iff_eq.2 hpoll
  rw [resyncLoop, issue_afterAttempts hc h, Run.bind_done, if_pos hecho]
  rfl

/-- An attempt that does not match is counted after its pulse, and is the last at the bound. -/
theorem resyncLoop_differs (n : Nat) (h : s.NoFault (97 * (k + 1))) (hpoll : (s.response (32 * k)).byte poll.1 ≠ poll.2) :
    resyncLoop T poll (n + 1) (s.afterAttempts c k) =
      if s.resyncTries + (k + 1) = s.cfg.params.resyncBound then
        .raised (.resyncExhausted s.cfg.params.resyncBound) (s.afterAttempts c (k + 1)).handshakeFailed
      else resyncLoop T poll n (s.afterAttempts c (k + 1)) := by
  have hecho : echoOk poll (s.response (32 * k)) ≠ true := fun he => hpoll (beq_iff_eq.1 he)
  have hpulse : ((s.attempted c k).withHandshake s.fsm (s.resyncTries + k) s.peOk).faultAt 0 = none := by
    simpa [State.attempted] using h (97 * k + 96) (by omega)
  have hcount : (((s.attempted c k).withHandshake s.fsm (s.resyncTries + k) s.peOk).exchanged 1 0
      (s.attempted c k).lvlSdo [.pulse .sck]).countResync = s.afterAttempts c (k + 1) := by
    rw [State.attempted, State.exchanged_withHandshake, State.exchanged_exchanged, State.afterAttempts,
      if_neg k.succ_ne_zero]
    rfl
  rw [resyncLoop, issue_afterAttempts hc (h.mono (by omega)), Run.bind_done, if_neg hecho, pulse_exchanged _ hpulse,
    Run.bind_done, State.withHandshake_lvlSdo, hcount]
  rfl

/-- Attempts below the bound that do not match. -/
theorem resyncLoop_attempts {n : Nat} (hs : s.resyncTries = 0) (hn : k + (n + 1) = s.cfg.params.resyncBound)
    (h : s.NoFault (97 * k)) (hpoll : ∀ j < k, (s.response (32 * j)).byte poll.1 ≠ poll.2) :
    resyncLoop T poll s.cfg.params.resyncBound s = resyncLoop T poll (n + 1) (s.afterAttempts c k) := by
  induction k generalizing n with
  | zero => rw [afterAttempts_zero, ← hn, Nat.zero_add]
  | succ k ih =>
    rw [ih (n := n + 1) (by omega) (h.mono (by omega)) fun j hj => hpoll j (by omega),
      resyncLoop_differs hc (n + 1) h (hpoll k (Nat.lt_succ_self k)), if_neg (by omega)]

/-- A handshake whose first match is attempt `k + 1` (R266). -/
theorem enableBody_matches (hT : T.poll = some poll) (hs : s.resyncTries = 0) (hk : k < s.cfg.params.resyncBound)
    (h : s.NoFault (97 * k + 96)) (hfails : ∀ j < k, (s.response (32 * j)).byte poll.1 ≠ poll.2)
    (hpoll : (s.response (32 * k)).byte poll.1 = poll.2) :
    enableBody T s = .done () ((s.attempted c k).withHandshake .enabled k true) := by
  obtain ⟨n, hn⟩ := Nat.exists_eq_add_of_lt hk
  simp only [enableBody, hT]
  rw [resyncLoop_attempts hc (n := n) hs (by omega) (h.mono (by omega)) hfails, resyncLoop_matches hc n h hpoll, hs,
    Nat.zero_add]

/-- A handshake none of whose attempts matches ends at the bound (R266). -/
theorem enableBody_exhausted (hT : T.poll = some poll) (hs : s.resyncTries = 0) (hbound : 1 ≤ s.cfg.params.resyncBound)
    (h : s.NoFault (97 * s.cfg.params.resyncBound))
    (hfails : ∀ j < s.cfg.params.resyncBound, (s.response (32 * j)).byte poll.1 ≠ poll.2) :
    enableBody T s = .raised (.resyncExhausted s.cfg.params.resyncBound)
      (s.afterAttempts c s.cfg.params.resyncBound).handshakeFailed := by
  obtain ⟨k, hk⟩ := Nat.exists_eq_add_of_le' hbound
  simp only [enableBody, hT]
  rw [resyncLoop_attempts hc (k := k) (n := 0) hs (by omega) (h.mono (by omega)) fun j hj => hfails j (by omega),
    resyncLoop_differs hc 0 (hk ▸ h) (hfails k (by omega)), if_pos (by omega), hk]

/-- A part that does not echo is enabled by one exchange (R265). -/
theorem enableBody_noEcho (hT : T.poll = none) (h : s.NoFault 96) :
    enableBody T s = .done () ((s.afterCmd c (s.response 0)).withHandshake .enabled s.resyncTries true) := by
  simp only [enableBody, hT, issue, ← hc, transmitCmd_done c h, Run.bind_done]
  rfl

end

/-! ### The handshake of `initialize` (R265, R266, R332) -/

/-- The state in which a handshake makes its first attempt: after the preamble, Resyncing (R265). -/
def State.resyncing (s : State) : State :=
  { s.clearHandshake.afterPinOps s.cfg.initPreamble with fsm := .resyncing }

section
variable (s : State)

@[simp] theorem State.resyncing_cfg : s.resyncing.cfg = s.cfg := s.clearHandshake.afterPinOps_cfg s.cfg.initPreamble

@[simp] theorem State.resyncing_resyncTries : s.resyncing.resyncTries = 0 :=
  s.clearHandshake.afterPinOps_resyncTries s.cfg.initPreamble

@[simp] theorem State.response_resyncing (k : Nat) : s.resyncing.response k = s.response k :=
  s.clearHandshake.response_afterPinOps s.cfg.initPreamble k

@[simp] theorem State.faultAt_resyncing (k : Nat) :
    s.resyncing.faultAt k = s.faultAt (s.cfg.initPreamble.length + k) :=
  s.clearHandshake.faultAt_afterPinOps s.cfg.initPreamble k

end

theorem State.noFault_resyncing {s : State} {n : Nat} (h : s.NoFault (s.cfg.initPreamble.length + n)) :
    s.resyncing.NoFault n := fun k hk => by
  rw [State.faultAt_resyncing]
  exact h _ (by omega)

@[simp] theorem State.startCall_cfg (s : State) : s.startCall.cfg = s.cfg := rfl
@[simp] theorem State.faultAt_startCall (s : State) (k : Nat) : s.startCall.faultAt k = s.faultAt k := rfl
@[simp] theorem State.response_startCall (s : State) (k : Nat) : s.startCall.response k = s.response k := rfl

/-- The attempts that fail are those of the responses. -/
theorem failedAttempts_congr {s t : State} (h : ∀ k, t.response k = s.response k) (c : Cmd) (k : Nat) :
    failedAttempts t c k = failedAttempts s c k := by
  induction k with
  | zero => rfl
  | succ k ih => rw [failedAttempts, failedAttempts, ih, h]

/-- A handshake is the preamble and then the attempts. -/
theorem handshake_eq {s : State} {T : Template} (hT : s.cfg.part.pgmEnable = some T)
    (h : s.NoFault s.cfg.initPreamble.length) :
    handshake s = (enableBody T s.resyncing).bind fun _ t => .done .ok t := by
  rw [handshake, runPinList_done (s := s.clearHandshake) s.cfg.initPreamble h, Run.bind_done]
  have hpgm : (s.clearHandshake.afterPinOps s.cfg.initPreamble).cfg.part.pgmEnable = some T := by
    rw [State.afterPinOps_cfg]
    exact hT
  simp only [hpgm]
  rfl

section
variable {s : State} {T : Template} (hf : s.fsm = .disconnected) (hcheck : checkInitialise s.cfg = none)
  (hT : s.cfg.part.pgmEnable = some T)
include hf hcheck hT

/-- `initialize` is its handshake once its check passes. -/
theorem initialise_eq (h : s.NoFault s.cfg.initPreamble.length) :
    execHostCall .initialise s
      = .next (complete s.fsm ((enableBody T s.startCall.resyncing).bind fun _ t => .done .ok t)) := by
  rw [execHostCall, hostInitialise, if_pos hf, checked_none hcheck, ← State.startCall,
    handshake_eq (s := s.startCall) hT h]

end

/-- Settles O38: one exchange after the preamble. -/
theorem nonEchoingPartIsEnabled : Obligations.NonEchoingPartIsEnabled := by
  intro s T hf hcheck hT hpoll hok
  have hrun := enableBody_noEcho (s := s.startCall.resyncing) rfl hpoll (State.noFault_resyncing (s := s.startCall) hok)
  rw [State.response_resyncing, State.response_startCall] at hrun
  rw [initialise_eq hf hcheck hT (hok.mono (by omega)), hrun]
  rfl

/-- Settles O39: the loop goes through the attempts that fail and ends with the match. -/
theorem handshakeSucceedsAfterFailures : Obligations.HandshakeSucceedsAfterFailures := by
  intro s T pl k hf hcheck hT hpoll hk hok hfails hmatch
  have hrun := enableBody_matches (s := s.startCall.resyncing) rfl hpoll (State.resyncing_resyncTries _)
    (by simpa using hk) (State.noFault_resyncing (s := s.startCall) hok) (by simpa using hfails) (by simpa using hmatch)
  rw [State.attempted, failedAttempts_congr (State.response_resyncing _),
    failedAttempts_congr (State.response_startCall s), State.response_resyncing, State.response_startCall] at hrun
  rw [initialise_eq hf hcheck hT (hok.mono (by omega)), hrun]
  rfl

/-- Settles O40: the loop goes through the attempts that fail, the last of them at the bound. -/
theorem resyncExhaustedAtTheBound : Obligations.ResyncExhaustedAtTheBound := by
  intro s T pl hf hcheck hT hpoll hbound hok hfails
  have hrun := enableBody_exhausted (s := s.startCall.resyncing) rfl hpoll (State.resyncing_resyncTries _)
    (by simpa using hbound) (by rw [State.resyncing_cfg]; exact State.noFault_resyncing (s := s.startCall) hok)
    (by simpa using hfails)
  rw [State.afterAttempts, failedAttempts_congr (State.response_resyncing _),
    failedAttempts_congr (State.response_startCall s), State.resyncing_cfg, State.startCall_cfg, if_neg (by omega),
    State.resyncing_resyncTries, Nat.zero_add] at hrun
  rw [initialise_eq hf hcheck hT (hok.mono (by omega)), hrun]
  rfl

/-! ### `chip_erase` (R300) -/

/-- The state `chip_erase` sends its command in (R43, R300). -/
def State.erasing (s : State) : State := { s with fsm := .erasing, extLast := none }

/-- The state after CHIP_ERASE and the part's delay (R300, R375). -/
def State.erased (s : State) (c : Cmd) : State :=
  s.erasing.exchanged 97 32 (c.b3.getLsbD 0) (cmdEvents c (s.response 0) ++ [Event.delay s.cfg.part.chipEraseDelayUs])

@[simp] theorem State.erased_cfg (s : State) (c : Cmd) : (s.erased c).cfg = s.cfg := rfl

@[simp] theorem State.faultAt_erased (s : State) (c : Cmd) (k : Nat) : (s.erased c).faultAt k = s.faultAt (97 + k) :=
  s.erasing.faultAt_exchanged ..

@[simp] theorem State.response_erased (s : State) (c : Cmd) (k : Nat) : (s.erased c).response k = s.response (32 + k) :=
  s.erasing.response_exchanged ..

/-- CHIP_ERASE and its delay come before the handshake. -/
theorem eraseBody_eq {s : State} {E : Template} (hE : s.cfg.part.chipErase = some E) (h : s.NoFault 97) :
    eraseBody s = handshake (s.erased (build E none none)) := by
  have hcmd := transmitCmd_done (s := s.erasing) (build E none none) (h.mono (by decide))
  have hdelay : (s.erasing.afterCmd (build E none none) (s.response 0)).faultAt 0 = none :=
    (s.erasing.faultAt_exchanged ..).trans (h 96 (by decide))
  simp only [eraseBody, hE, issue]
  rw [← State.erasing, hcmd, Run.bind_done]
  exact congrArg (Run.bind · _) (delay_exchanged _ hdelay) |>.trans <| congrArg handshake <|
    State.exchanged_exchanged ..

/-- A handshake that is done at its first exchange: the part does not echo, or its echo matches at once. -/
theorem enableBody_first {s : State} {T : Template} (hs : s.resyncTries = 0) (h : s.NoFault 96)
    (hpoll : T.poll = none
      ∨ (1 ≤ s.cfg.params.resyncBound ∧ ∃ pl, T.poll = some pl ∧ (s.response 0).byte pl.1 = pl.2)) :
    enableBody T s = .done () ((s.afterCmd (build T none none) (s.response 0)).withHandshake .enabled 0 true) := by
  rcases hpoll with hpoll | ⟨hbound, pl, hpoll, hmatch⟩
  · rw [enableBody_noEcho rfl hpoll h, hs]
  · exact enableBody_matches (k := 0) rfl hpoll hs hbound h (fun _ hj => absurd hj (Nat.not_lt_zero _)) hmatch

/-- Settles O51: the erase, and then the handshake from the state it leaves. -/
theorem chipEraseRunsTheHandshake : Obligations.ChipEraseRunsTheHandshake := by
  intro s E T hf hE hT hpoll hok
  have hcheck : checkChipErase s.cfg = none := by rw [checkChipErase, hE, hT]; rfl
  have herased : (s.erased (build E none none)).NoFault (s.cfg.initPreamble.length + 96) := fun k hk => by
    rw [State.faultAt_erased]
    exact hok _ (by omega)
  have hfirst := enableBody_first (s := (s.erased (build E none none)).resyncing) (T := T) (State.resyncing_resyncTries _)
    (State.noFault_resyncing herased) (by simpa using hpoll)
  rw [State.response_resyncing, State.response_erased, Nat.add_zero] at hfirst
  have hcall : execHostCall .chipErase s = .next (returnResult .ok
      (((s.erased (build E none none)).resyncing.afterCmd (build T none none) (s.response 32)).withHandshake .enabled 0
        true)) := by
    rw [execHostCall, hostChipErase, if_pos hf, checked_none hcheck, eraseBody_eq hE (hok.mono (by omega)),
      handshake_eq (s := s.erased (build E none none)) hT (herased.mono (Nat.le_add_right _ _)), hfirst]
    rfl
  obtain ⟨sck, sdo, aux, hpreamble⟩ :=
    afterPinOps_frame (s.erased (build E none none)).clearHandshake s.cfg.initPreamble
  refine ⟨_, hcall, ?_⟩
  rw [State.resyncing, State.erased_cfg, hpreamble]
  refine ⟨rfl, rfl, rfl, rfl, rfl, rfl, rfl, ?_⟩
  simp [State.erased, State.erasing, State.clearHandshake, State.exchanged, State.afterCmd, State.withHandshake]

end Sys2Proof.Machine
end

section
/-! PROOFS. `read_memory` byte by byte (44_memory_programmer.md R264, R268, R269), and `write_byte` in each of its outcomes
where no LOAD_EXT_ADDR is due (R280 to R283). -/

namespace Sys2Proof.Machine

/-! ### The bytes of a range (R268, R269) -/

/-- The output bytes of the READ-class commands of a range. -/
def State.readOuts (s : State) (m : Region) (a n : Nat) : List Byte :=
  (List.range n).map fun q => readOut m (a + q) ((s.afterItems m (readItems m a q)).answer m (a + q))

theorem readItems_succ (m : Region) (a n : Nat) :
    readItems m a (n + 1) = .addressed a (readCmd m a) :: readItems m (a + 1) n := by
  simp [readItems, List.range_succ_eq_map, Nat.add_assoc, Nat.add_comm 1]

theorem readOuts_succ (s : State) (m : Region) (a n : Nat) :
    s.readOuts m a (n + 1)
      = readOut m a (s.answer m a) :: (s.afterItem m (.addressed a (readCmd m a))).readOuts m (a + 1) n := by
  simp [State.readOuts, List.range_succ_eq_map, readItems_succ, Nat.add_assoc, Nat.add_comm 1]
  rfl

/-- Progress events and the registers of the call change no byte that is read. -/
theorem readOuts_of_quiet {t u : State} {f : Fsm} {k c : Nat} {pv : Memory} (h : t.quiet = (u.withRegs f k c pv).quiet)
    (m : Region) (a n : Nat) : t.readOuts m a n = u.readOuts m a n := by
  simp only [State.readOuts, answer_afterItems_of_quiet h]

/-- A READ-class command that goes through returns its output byte (R268). -/
theorem readByte_addressed {s : State} (rn : RegionName) {m : Region} {a : Nat}
    (ho : (regionOp m (sel m .read a)).isSome) (h : s.Carries m [.addressed a (readCmd m a)]) :
    readByte rn m a s = .done (readOut m a (s.answer m a)) (s.afterItem m (.addressed a (readCmd m a))) :=
  readByte_done rn (v := readOut m a (s.answer m a)) (equal := true) ho ⟨h.1, by simp [State.answered]⟩

/-- The loop of `read_memory` returns the bytes of its range, and leaves the state of its items, progress events aside. -/
theorem readLoop_done {s : State} (rn : RegionName) {m : Region} (ho : ∀ a, (regionOp m (sel m .read a)).isSome)
    (start total left q : Nat) (h : s.Carries m (readItems m (start + q) left)) :
    ∃ t, readLoop rn m start total left q s = .done (s.readOuts m (start + q) left) t
      ∧ t.quiet = (s.afterItems m (readItems m (start + q) left)).quiet := by
  induction left generalizing q s with
  | zero => exact ⟨s, rfl, rfl⟩
  | succ left ih =>
    rw [readItems_succ] at h
    obtain ⟨hbyte, hlater⟩ := carries_cons.1 h
    let u := s.afterItem m (.addressed (start + q) (readCmd m (start + q)))
    have hquiet : (u.emit (.progress (q + 1) total)).quiet
        = (u.withRegs u.fsm u.pollTries u.cursor u.pageVals).quiet := u.quiet_progress ..
    obtain ⟨t, hloop, ht⟩ := ih (q + 1) (carries_of_quiet hquiet m hlater)
    rw [readOuts_of_quiet hquiet] at hloop
    refine ⟨t, ?_, ?_⟩
    · rw [readLoop_succ total left (readByte_addressed rn (ho _) hbyte), hloop, Run.bind_done, readOuts_succ]
      rfl
    · rw [ht, State.quiet_afterItems, State.quiet_progress, readItems_succ, State.afterItems_cons,
        State.quiet_afterItems]
      rfl

/-! ### How `read_memory` ends (R269) -/

/-- A state that, progress events aside, is the one after the items of a call has traced the events of those items. -/
theorem addsEventsOf_of_quiet {s v : State} {m : Region} {items : List WireItem} {f : Fsm} {n q : Nat} {pv : Memory}
    (hgrows : s.trace <+: v.trace)
    (hv : v.quiet = ((s.startCall.afterItems m items).withRegs f n q pv).quiet) :
    AddsEventsOf s (s.startCall.afterItems m items) v := by
  obtain ⟨calls, samples, evs, hitems⟩ := afterItems_exchanges s.startCall m items
  have hevs : (s.startCall.afterItems m items).trace = s.trace ++ evs := hitems.grows
  have hpure : withoutProgress evs = evs := by
    obtain ⟨new, hnew, hnone⟩ := hitems.trace
    rwa [List.append_cancel_left (hnew.symm.trans hevs)] at hnone
  obtain ⟨new, hnew⟩ := hgrows
  have htrace : withoutProgress v.trace = withoutProgress (s.trace ++ evs) := hevs ▸ congrArg State.trace hv
  have hcancel : withoutProgress new = withoutProgress evs := by
    rw [← hnew] at htrace
    simpa using htrace
  exact ⟨⟨new, hnew⟩, by simp only [newEvents, ← hnew, hevs, List.drop_left, hcancel, hpure]⟩

/-- READ-class commands ask for no answer. -/
theorem answered_readItems (s : State) (m : Region) (a n : Nat) : s.answered m (readItems m a n) = true := by
  induction n generalizing s a with
  | zero => rfl
  | succ n ih => rw [readItems_succ, State.answered, ih]

/-- A `read_memory` whose loop is done returns the loop's bytes, in the state after its items with the session Enabled. -/
theorem readMemory_ends {s t : State} {rn : RegionName} {m : Region} {start n : Nat} {bs : List Byte}
    {items : List WireItem} (hf : s.fsm = .enabled) (hm : findRegion s rn = some m) (hsize : start + n ≤ m.size)
    (hops : undefinedRegionOp? rn m (readNeeds m) = none)
    (hloop : readLoop rn m start n n 0 (s.startCall.withRegs .reading s.pollTries s.cursor s.pageVals) = .done bs t)
    (ht : t.quiet = ((s.startCall.afterItems m items).withRegs .reading s.pollTries s.cursor s.pageVals).quiet) :
    ∃ t, execHostCall (.readMemory rn start n) s = .next t ∧ t.results = s.results ++ [.bytes bs]
      ∧ AddsEventsOf s (s.startCall.afterItems m items) t
      ∧ t = { s.startCall.afterItems m items with trace := t.trace, results := t.results } := by
  let v := t.withRegs .enabled t.pollTries t.cursor t.pageVals
  have hv : v.quiet = ((s.startCall.afterItems m items).withRegs .enabled s.pollTries s.cursor s.pageVals).quiet := by
    change t.quiet.withRegs .enabled t.quiet.pollTries t.quiet.cursor t.quiet.pageVals = _
    rw [ht]; rfl
  have hbody : complete s.fsm (readBody rn m start n s) = returnResult (.bytes bs) v :=
    congrArg (fun r : Run (List Byte) => complete s.fsm (r.bind fun bs t => .done (.bytes bs) { t with fsm := .enabled }))
      hloop
  have hgrows : s.trace <+: v.trace := by
    obtain ⟨_, h⟩ := checked_returned (c := none) ((Runs.readMemory rn m start n hf).core s)
    rw [checked_none rfl, hbody] at h
    exact h.trace
  have hresults : v.results = s.results := (congrArg State.results hv).trans (s.startCall.afterItems_results m items)
  refine ⟨returnResult (.bytes bs) v, ?call, by simp [hresults], addsEventsOf_of_quiet (v := v) hgrows hv, ?state⟩
  case call =>
    rw [← hbody, execHostCall, hostReadMemory, if_pos hf, hm]
    simp only [if_pos hsize, checked_none hops]
    rfl
  case state =>
    have hregs := State.afterItems_regs s.startCall m items
    rw [show s.startCall.fsm = .enabled from hf] at hregs
    rw [eq_of_quiet hv, hregs]
    rfl

/-- Settles O41: the loop reads the bytes of the range, and leaves the state of its items. -/
theorem readMemoryReturnsEachByte : Obligations.ReadMemoryReturnsEachByte := by
  intro s rn m start n hf hm hsize hops s₀ u hok
  let r := s.startCall.withRegs .reading s.pollTries s.cursor s.pageVals
  have hcarries : r.Carries m (readItems m (start + 0) n) :=
    (State.carries_withRegs ..).2 ⟨hok, answered_readItems s.startCall m start n⟩
  obtain ⟨t, hloop, ht⟩ := readLoop_done rn (regionOp_read_isSome hops) start n n 0 hcarries
  rw [readOuts_of_quiet (t := r) (u := s.startCall) rfl] at hloop
  exact readMemory_ends hf hm hsize hops hloop (ht.trans (congrArg State.quiet (State.afterItems_withRegs ..)))

/-! ### Items of a byte whose window is known (R264, R280 to R283) -/

section
variable {m : Region} {a : Nat} {s : State}

/-- An exchange that sends no LOAD_EXT_ADDR leaves the window known. -/
theorem NoLeaFor.exchanged (h : NoLeaFor m a s) (n g : Nat) (v : Bool) (evs : List Event) :
    NoLeaFor m a (s.exchanged n g v evs) := h

theorem afterLea_of_noLeaFor (h : NoLeaFor m a s) : s.afterLea m a = s := by
  have hword : s.leaWord m a = none := by
    rcases h with h | h
    · rw [State.leaWord, h]
    · rw [window_eq_div] at h
      rw [State.leaWord]
      split
      · rfl
      · exact if_pos h
  rw [State.afterLea, hword]

theorem answer_of_noLeaFor (h : NoLeaFor m a s) : s.answer m a = s.response 0 := by
  rw [State.answer, afterLea_of_noLeaFor h]

theorem afterItem_addressed (h : NoLeaFor m a s) (c : Cmd) :
    s.afterItem m (.addressed a c) = s.afterCmd c (s.response 0) := by
  rw [State.afterItem, afterLea_of_noLeaFor h, answer_of_noLeaFor h]

theorem afterItem_readBack (h : NoLeaFor m a s) (v : Byte) (equal : Bool) :
    s.afterItem m (.readBack a v equal) = s.afterCmd (readCmd m a) (s.response 0) := afterItem_addressed h _

/-- A command whose calls do not fail goes through. -/
theorem carries_addressed (h : NoLeaFor m a s) (c : Cmd) (hok : s.NoFault 96) : s.Carries m [.addressed a c] := by
  have hcalls : s.callsOf m [.addressed a c] = 96 := by
    rw [State.callsOf, State.afterItems_cons, afterItem_addressed h]
    exact Nat.add_sub_cancel_left ..
  exact ⟨hcalls ▸ hok, rfl⟩

/-- So does a read-back that is answered as it says. -/
theorem carries_readBack (h : NoLeaFor m a s) {v : Byte} {equal : Bool} (hok : s.NoFault 96)
    (hread : (readOut m a (s.response 0) == v) = equal) : s.Carries m [.readBack a v equal] :=
  ⟨(carries_addressed h (readCmd m a) hok).1, by simp [State.answered, answer_of_noLeaFor h, hread]⟩

theorem carries_wait {us : Nat} (hok : s.faultAt 0 = none) : s.Carries m [.wait us] := by
  have hcalls : s.callsOf m [.wait us] = 1 := Nat.add_sub_cancel_left ..
  exact ⟨fun k hk => by rw [hcalls, Nat.lt_one_iff] at hk; rw [hk]; exact hok, rfl⟩

/-! ### The poll of such a byte (R282) -/

/-- The state after `k` read-backs, each after the minimum delay. -/
def State.afterPolls (s : State) (m : Region) (a k : Nat) : State :=
  s.exchanged (97 * k) (32 * k) (if k = 0 then s.lvlSdo else (readCmd m a).b3.getLsbD 0) (pollEvents s m a 0 k)

theorem afterPolls_zero (s : State) (m : Region) (a : Nat) : s.afterPolls m a 0 = s := s.exchanged_zero

/-- The state in which read-back `k + 1` is sent: after its delay. -/
def State.waited (s : State) (m : Region) (a k : Nat) : State :=
  (s.afterPolls m a k).exchanged 1 0 (s.afterPolls m a k).lvlSdo [.delay m.minWriteDelayUs]

@[simp] theorem response_waited (s : State) (m : Region) (a k : Nat) :
    (s.waited m a k).response 0 = s.response (32 * k) := by simp [State.waited, State.afterPolls]

theorem afterItem_waited (h : NoLeaFor m a s) (k : Nat) (v : Byte) (equal : Bool) :
    (s.waited m a k).afterItem m (.readBack a v equal) = s.afterPolls m a (k + 1) := by
  rw [afterItem_readBack (m := m) (s := s.waited m a k) h, response_waited, State.afterCmd, State.waited,
    State.exchanged_exchanged, State.afterPolls, State.exchanged_exchanged, State.afterPolls, if_neg k.succ_ne_zero]
  simp [pollEvents, Nat.mul_add]

theorem failedPolls_succ (m : Region) (a : Nat) (d : Byte) (k : Nat) :
    failedPolls m a d (k + 1) = failedPolls m a d k ++ [.wait m.minWriteDelayUs, .readBack a d false] := by
  simp [failedPolls, List.replicate_succ']

/-- Read-backs that do not match leave the state after as many read-backs. -/
theorem afterItems_failedPolls (h : NoLeaFor m a s) (d : Byte) (k : Nat) :
    s.afterItems m (failedPolls m a d k) = s.afterPolls m a k := by
  induction k with
  | zero => exact (afterPolls_zero ..).symm
  | succ k ih =>
    rw [failedPolls_succ, State.afterItems_append, ih]
    exact afterItem_waited h k d false

/-- The next read-back goes through where it is answered as it says. -/
theorem carries_poll (h : NoLeaFor m a s) {d : Byte} {equal : Bool} {k : Nat} (hok : s.NoFault (97 * (k + 1)))
    (hread : (readOut m a (s.response (32 * k)) == d) = equal) :
    (s.afterPolls m a k).Carries m [.wait m.minWriteDelayUs, .readBack a d equal] := by
  refine carries_cons.2 ⟨carries_wait ?_, carries_readBack (s := s.waited m a k) h (fun j hj => ?_) ?_⟩
  · simpa [State.afterPolls] using hok (97 * k) (by omega)
  · simpa [State.waited, State.afterPolls] using hok (97 * k + (1 + j)) (by omega)
  · rwa [response_waited]

theorem carries_failedPolls (h : NoLeaFor m a s) {d : Byte} {k : Nat} (hok : s.NoFault (97 * k))
    (hread : ∀ j < k, readOut m a (s.response (32 * j)) ≠ d) : s.Carries m (failedPolls m a d k) := by
  induction k with
  | zero => exact ⟨fun _ hj => absurd hj (by simp [State.callsOf, failedPolls, State.afterItems]), rfl⟩
  | succ k ih =>
    rw [failedPolls_succ, carries_append, afterItems_failedPolls h]
    exact ⟨ih (hok.mono (by omega)) fun j hj => hread j (by omega),
      carries_poll h hok (beq_eq_false_iff_ne.2 (hread k (Nat.lt_succ_self k)))⟩

theorem matchedPoll_eq (m : Region) (a : Nat) (d : Byte) (k : Nat) :
    matchedPoll m a d k = pollBefore m a d k ++ [.readBack a d true] := by simp [matchedPoll, pollBefore]

theorem afterItems_pollBefore (h : NoLeaFor m a s) (d : Byte) (k : Nat) :
    s.afterItems m (pollBefore m a d k) = s.waited m a k := by
  rw [pollBefore, State.afterItems_append, afterItems_failedPolls h]
  rfl

theorem afterItems_polls (h : NoLeaFor m a s) (d : Byte) (k : Nat) (equal : Bool) :
    s.afterItems m (pollBefore m a d k ++ [.readBack a d equal]) = s.afterPolls m a (k + 1) := by
  rw [State.afterItems_append, afterItems_pollBefore h]
  exact afterItem_waited h k d equal

/-- A poll goes through up to the read-back that follows those that do not match. -/
theorem carries_polls (h : NoLeaFor m a s) {d : Byte} {equal : Bool} {k : Nat} (hok : s.NoFault (97 * (k + 1)))
    (hfails : ∀ j < k, readOut m a (s.response (32 * j)) ≠ d)
    (hread : (readOut m a (s.response (32 * k)) == d) = equal) :
    s.Carries m (pollBefore m a d k ++ [.readBack a d equal]) := by
  rw [pollBefore, List.append_assoc, carries_append, afterItems_failedPolls h]
  exact ⟨carries_failedPolls h (hok.mono (by omega)) hfails, carries_poll h hok hread⟩

/-! ### `write_byte` of such a byte (R280 to R283) -/

/-- The state after the pre-read and the write command. -/
def State.written (s : State) (m : Region) (a : Nat) (d : Byte) : State :=
  s.exchanged 192 64 ((writeCmd m a d).b3.getLsbD 0)
    (cmdEvents (readCmd m a) (s.response 0) ++ cmdEvents (writeCmd m a d) (s.response 32))

@[simp] theorem State.written_cfg (s : State) (m : Region) (a : Nat) (d : Byte) : (s.written m a d).cfg = s.cfg := rfl

@[simp] theorem response_written (s : State) (m : Region) (a : Nat) (d : Byte) (k : Nat) :
    (s.written m a d).response k = s.response (64 + k) := s.response_exchanged ..

@[simp] theorem faultAt_written (s : State) (m : Region) (a : Nat) (d : Byte) (k : Nat) :
    (s.written m a d).faultAt k = s.faultAt (192 + k) := s.faultAt_exchanged ..

theorem noFault_written {s : State} {n : Nat} (hok : s.NoFault (192 + n)) (m : Region) (a : Nat) (d : Byte) :
    (s.written m a d).NoFault n := fun k hk => by simpa using hok (192 + k) (by omega)

/-- The state after the pre-read, the write command and `k + 1` read-backs. -/
theorem afterPolls_written (s : State) (m : Region) (a k : Nat) (d : Byte) :
    (s.written m a d).afterPolls m a (k + 1)
      = s.exchanged (192 + 97 * (k + 1)) (64 + 32 * (k + 1)) ((readCmd m a).b3.getLsbD 0)
        (cmdEvents (readCmd m a) (s.response 0) ++ cmdEvents (writeCmd m a d) (s.response 32)
          ++ pollEvents s m a 64 (k + 1)) := by
  have hevents : ∀ n, pollEvents (s.written m a d) m a 0 n = pollEvents s m a 64 n := fun n => by
    induction n with
    | zero => rfl
    | succ n ih => simp [pollEvents, ih]
  rw [State.afterPolls, hevents, if_neg k.succ_ne_zero, State.written, State.exchanged_exchanged]

section
variable {d : Byte} (h : NoLeaFor m a s) (hok : s.NoFault 192) (hdiffers : readOut m a (s.response 0) ≠ d)
include h

theorem afterItems_written : s.afterItems m (writtenItems m a d) = s.written m a d := by
  rw [writtenItems, State.afterItems_cons, afterItem_readBack h, State.afterItems_cons,
    afterItem_addressed (s := s.afterCmd (readCmd m a) (s.response 0)) h]
  simp [State.afterCmd, State.exchanged_exchanged, State.written]

include hok hdiffers

theorem carries_written : s.Carries m (writtenItems m a d) := by
  refine carries_cons.2 ⟨carries_readBack h (hok.mono (by omega)) (beq_eq_false_iff_ne.2 hdiffers), ?_⟩
  rw [afterItem_readBack h]
  refine carries_addressed (s := s.afterCmd (readCmd m a) (s.response 0)) h _ fun k hk => ?_
  simpa [State.afterCmd] using hok (96 + k) (by omega)

/-- A byte that differs from the pre-read is written, and then polled. -/
theorem writeByte_polls (rn : RegionName) (hread : regionOp m (sel m .read a) ≠ none)
    (hwrite : regionOp m (sel m .write a) ≠ none) : writeByte rn m a d s = poll rn m a d (s.written m a d) := by
  rw [writeByte_written rn (Option.isSome_iff_ne_none.2 hread) (Option.isSome_iff_ne_none.2 hwrite)
    (carries_written h hok hdiffers), afterItems_written h]

end

end

/-- Settles O44: the pre-read equals the byte. -/
theorem equalByteIsNotWritten : Obligations.EqualByteIsNotWritten := by
  intro s rn m a d hread hlea hok hequal
  rw [writeByte_skipped rn (Option.isSome_iff_ne_none.2 hread) (carries_readBack hlea hok (beq_iff_eq.2 hequal)),
    afterItem_readBack hlea]

/-- Settles O45: the poll of a sentinel is one delay. -/
theorem sentinelWriteWaitsOnce : Obligations.SentinelWriteWaitsOnce := by
  intro s rn m a d hread hwrite hlea hok hdiffers hd
  have hwait : (s.written m a d).Carries m [.wait m.maxWriteDelayUs] :=
    carries_wait (by simpa using hok 192 (by omega))
  rw [writeByte_polls hlea (hok.mono (by omega)) hdiffers rn hread hwrite, poll_sentinel rn (by simpa using hd) hwait]
  exact congrArg (Run.done ()) (s.exchanged_exchanged ..)

/-- Settles O46: the poll goes through the read-backs that differ and ends with the match. -/
theorem writePollsUntilMatch : Obligations.WritePollsUntilMatch := by
  intro s rn m a d k hread hwrite hlea hk hok hdiffers hd hfails hmatch
  have hpoll := carries_polls (s := s.written m a d) (d := d) (equal := true) (k := k) hlea
    (noFault_written hok m a d) (by simpa using hfails) (by simpa using hmatch)
  rw [← matchedPoll_eq] at hpoll
  rw [writeByte_polls hlea (hok.mono (by omega)) hdiffers rn hread hwrite,
    poll_matched rn (Option.isSome_iff_ne_none.2 hread) (by simpa using hd) (by simpa using hk) hpoll, matchedPoll_eq,
    afterItems_polls (s := s.written m a d) hlea, afterPolls_written]
  rfl

/-- Settles O47: the poll goes through all its read-backs, the last of them at the bound. -/
theorem pollTimeoutAtTheBound : Obligations.PollTimeoutAtTheBound := by
  intro s rn m a d n hread hwrite hlea hn hok hdiffers hd hfails
  have hpoll := carries_polls (s := s.written m a d) (d := d) (equal := false) (k := n) hlea
    (noFault_written hok m a d) (by simpa using fun j hj => hfails j (by omega)) (by simpa using hfails n le_rfl)
  have hanswer : ((s.written m a d).waited m a n).answer m a = s.response (64 + 32 * n) := by
    rw [answer_of_noLeaFor (s := (s.written m a d).waited m a n) hlea, response_waited]
    exact State.response_exchanged ..
  rw [writeByte_polls hlea (hok.mono (by omega)) hdiffers rn hread hwrite,
    poll_timesOut rn (Option.isSome_iff_ne_none.2 hread) (by simpa using hd) (by simpa using hn) hpoll,
    afterItems_pollBefore (s := s.written m a d) hlea, hanswer, afterItems_polls (s := s.written m a d) hlea,
    afterPolls_written]
  rfl

end Sys2Proof.Machine
end
